-- ==== Sys2Proof/Word.lean ====
section
/-! DEFINITION. The words of the machine: bytes, the 9-bit counters, the four reserved header bytes. -/

namespace Sys2Proof

/-- A byte: bit 7 is its most significant bit (R10). -/
abbrev Byte := BitVec 8

/-- The counters `pe.cnt` and `hd.cnt`: unsigned, `CNT_W` = 9 bits (R9, R22, R32). -/
abbrev Cnt := BitVec 9

/-- A device-id, two bits, all four values legal (R58, R118). -/
abbrev DevId := BitVec 2

/-- The four reserved header bytes, offsets 4 to 7, "carried but not interpreted" (R50, R85). -/
structure Rsv where
  r0 : Byte
  r1 : Byte
  r2 : Byte
  r3 : Byte
deriving DecidableEq, Repr

/-- A header length or payload length as a counter value: `zext_9` (R12, R83, R89). -/
def Cnt.ofByte (b : Byte) : Cnt := b.setWidth 9

end Sys2Proof
end

