-- ==== Sys2Proof/Config.lean ====
section
/-! DEFINITION. The constants of the protocol (R8), the fixed sizes (R9), and the configurations the model refuses (U17). -/

namespace Sys2Proof.Config

/-- Start marker (R8). -/
def start : Byte := 0xFE
/-- Stop marker (R8, R87). -/
def stop : Byte := 0x01
/-- Positive acknowledgment (R8, R88). -/
def ack : Byte := 0x0F
/-- Negative acknowledgment (R8, R88). -/
def nack : Byte := 0xF0
/-- Board identifier, compared unshifted (R8, R82). -/
def bid : Byte := 0x00
/-- Selects the six board bits of `identifier` (R8). -/
def boardMask : Byte := 0xFC
/-- Selects the two device bits of `identifier` (R8). -/
def devMask : Byte := 0x03
/-- Mode byte of a Read frame (R8). -/
def modeRead : Byte := 0x01
/-- Mode byte of a Write frame (R8). -/
def modeWrite : Byte := 0x02
/-- Header length in bytes, start marker included (R8). -/
def hdrLen : Nat := 8
/-- Number of reserved header bytes (R8): the header's last four, the fields of `Rsv`. -/
def rsvLen : Nat := 4
/-- Largest payload length (R8). -/
def lenMax : Nat := 255
/-- The device-id that selects the LED on a write (R8). -/
def devLed : DevId := 0
/-- Payload bytes per LCD line (R8, R133). -/
def lcdLineBytes : Nat := 8
/-- LCD lines (R8). -/
def lcdLines : Nat := 2
/-- Capacity of the payload buffer (R9, R24). -/
def bufCap : Nat := 255
/-- Width of the byte counters (R9). -/
def cntW : Nat := 9
/-- Capacity of the host receive store (R9, R35). -/
def hrxCap : Nat := 255
/-- Size of the host frame store: `9 + LEN_MAX` bytes (R34, R57). -/
def hfsCap : Nat := 264

/-- The depth of receive FIFO the guarantees need toward the peripheral (R293, D3). -/
def rxNeededPe : Nat := 8
/-- The depth of receive FIFO the guarantees need toward the host (R293, D3). -/
def rxNeededHd : Nat := 1

/-- The configurations a model accepts (U17): any other choice of these parameters is refused. -/
def accepts (bid : Byte) (bufCap hrxCap cntW : Nat) : Bool :=
  bid &&& devMask == 0 && 255 ≤ bufCap && 255 ≤ hrxCap && 8 ≤ cntW

end Sys2Proof.Config
end

