-- ==== Sys2Proof/Machine/Flags.lean ====
section
/-! DEFINITION. The block's flags (R4, R25): combinational predicates on one byte (R113 to R115, R119). -/

namespace Sys2Proof.Machine

/-- `validate_board` (R113): the board bits are compared unshifted with `BID`. -/
def validateBoard (id : Byte) : Bool := id &&& Config.boardMask == Config.bid

/-- `validate_mode` (R114). -/
def validateMode (m : Byte) : Bool := m == Config.modeRead || m == Config.modeWrite

/-- `validate_stop` (R115). -/
def validateStop (b : Byte) : Bool := b == Config.stop

/-- `is_start` (R119). -/
def isStart (b : Byte) : Bool := b == Config.start

/-- `is_ack` (R119): every byte but 0x0F is handled as `NACK`. -/
def isAck (b : Byte) : Bool := b == Config.ack

end Sys2Proof.Machine
end

