-- ==== Sys2Proof/Machine/State.lean ====
section
/-! DEFINITION. The state of the two engines, the channel and the inputs waiting at their ports; why a step can stop; the state after reset. -/

namespace Sys2Proof.Machine

/-- The two sequential agents (R20, R254). -/
inductive Agent where
  | pe
  | hd
deriving DecidableEq, Repr

/-- The two directions of the channel (R40). -/
inductive Dir where
  | h2p
  | p2h
deriving DecidableEq, Repr

/-- The states of the PeripheralEngine (R23). -/
inductive PeState where
  | waitStart
  | readHeader
  | validateBoard
  | validateMode
  | allocateBuffer
  | sendNack
  | wHdrAck
  | wPayload
  | wStop
  | wFinalAck
  | wDispatch
  | rHdrAck
  | rFill
  | rStream
  | rStop
  | rFinalAck
  | halted
deriving DecidableEq, Repr

/-- The states of the HostDriver (R37). -/
inductive HdState where
  | idle
  | sendHeader
  | waitHdrAck
  | retryPrompt
  | wSendPayload
  | wSendStop
  | wWaitFinal
  | rRecvPayload
  | rSendStop
  | rWaitFinal
  | fatal
deriving DecidableEq, Repr

/-- The five error causes (R240, R241). -/
inductive Cause where
  | badBoardId
  | badMode
  | allocationFailure
  | stopByteError
  | transportError
deriving DecidableEq, Repr

/-- What the peripheral's status port reports (R29). -/
inductive Status where
  | frameDoneWrite
  | badBoardId
  | badMode
  | allocationFailure
  | stopByteError
  | transportError
  | frameDoneRead
deriving DecidableEq, Repr

/-- What the host reports to its operator (R213). -/
inductive Report where
  | success
  | headerNack
  | stopBitsError
  | transportFatal
deriving DecidableEq, Repr

/-- The operator's two triggers (R212). -/
inductive OpKind where
  | start
  | retry
deriving DecidableEq, Repr

/-- The capabilities behind the registry (R130); what they do with the bytes is outside the block (R7, R258). -/
inductive Capability where
  | led
  | lcd
  | adc
deriving DecidableEq, Repr

/-- The event alphabet (R17). `err` carries the `info` of R241, which "serves the model's trace only"; a capability call names
the capability the registry selected (R130; log 18). -/
inductive Event where
  | rx (b : Byte)
  | tx (b : Byte)
  | alloc (n : Byte) (ok : Bool)
  | release
  | devw (cap : Capability) (d : DevId) (bytes : List Byte)
  | devr (cap : Capability) (d : DevId) (n : Byte) (bytes : List Byte)
  | err (c : Cause) (info : Option Byte)
  | op (k : OpKind)
  | report (r : Report)
deriving DecidableEq, Repr

/-- A byte store: (address, byte) pairs, addresses strictly rising; an unlisted address holds no value
(R27), so every listed byte differs from what an unlisted address reads as. -/
abbrev Memory := List Host.Cell

/-- The canonical form: addresses strictly rising. -/
abbrev Memory.wf (m : Memory) : Prop := m.Pairwise (fun x y => x.1 < y.1)

/-- Whether an allocation may fail (R9, D5). -/
inductive AllocModel where
  | oracle
  | neverFails
deriving DecidableEq, Repr

/-- Whether the channel may drop, alter or insert bytes (R9, D3). -/
inductive ChannelModel where
  | ideal
  | lossy
deriving DecidableEq, Repr

/-- The parameters the spec leaves OPEN (R9, R293, U18). No step changes them. -/
structure Params where
  /-- `ALLOC_MODEL`. -/
  allocModel : AllocModel
  /-- `CHANNEL_MODEL`. -/
  channelModel : ChannelModel
  /-- `RX_FIFO_DEPTH` toward the peripheral; `none` is unbounded. -/
  rxDepthPe : Option Nat
  /-- `RX_FIFO_DEPTH` toward the host; `none` is unbounded. -/
  rxDepthHd : Option Nat
  /-- Whether a full receive FIFO holds the sender back (R293). -/
  backPressure : Bool
deriving DecidableEq, Repr

/-- The PeripheralEngine (R21 to R27, R29). `none` is "holds no value" (R27; log 2). -/
structure Pe where
  /-- `pe.state` (R22). -/
  state : PeState
  /-- `pe.cnt` (R22). -/
  cnt : Option Cnt
  /-- `pe.id` (R21). -/
  id : Option Byte
  /-- `pe.len` (R21). -/
  len : Option Byte
  /-- `pe.mode` (R21). -/
  mode : Option Byte
  /-- `pe.rsv[0]` (R21). -/
  rsv0 : Option Byte
  /-- `pe.rsv[1]` (R21). -/
  rsv1 : Option Byte
  /-- `pe.rsv[2]` (R21). -/
  rsv2 : Option Byte
  /-- `pe.rsv[3]` (R21). -/
  rsv3 : Option Byte
  /-- `pe.alloc` (R24). -/
  alloc : Bool
  /-- `BUF` (R24). -/
  buf : Memory
  /-- `evt_valid` and `evt_code` (R29): `none` is `evt_valid` = 0. -/
  evt : Option Status
  /-- The `buf_release` pulse (R28, R281). -/
  bufRelease : Bool
deriving DecidableEq, Repr

/-- The HostDriver (R30 to R37). -/
structure Hd where
  /-- `hd.state` (R32). -/
  state : HdState
  /-- `hd.cnt` (R32). -/
  cnt : Option Cnt
  /-- `hd.last_ack` (R33). -/
  lastAck : Option Byte
  /-- `HFS`, the frame store (R34). -/
  hfs : Memory
  /-- `HRX`, the receive store (R35). -/
  hrx : Memory
  /-- `rpt_valid` and `rpt_code` (R38, R213): `none` is `rpt_valid` = 0. -/
  rpt : Option Report
deriving DecidableEq, Repr

/-- What the environment can do to the block (R15, R28, R34, R38, R40, R212, R248, R280). -/
inductive EnvMove where
  /-- `rst` of one engine (R280, R281). -/
  | reset (a : Agent)
  /-- `xport_err` sampled 1 by one engine (R248). -/
  | xportErr (a : Agent)
  /-- The operator's `start` or `retry` (R212). -/
  | op (k : OpKind)
  /-- A frame definition is loaded into the frame store (R34). -/
  | loadStore (bytes : List Byte)
  /-- The allocator's next answer (R15, R158). -/
  | allocAnswer (ok : Bool)
  /-- One ADC sample becomes ready (R135). -/
  | adcSample (b : Byte)
  /-- The write capability returns from a call (R28 `devw_done`, R136). -/
  | devwReturn
  /-- The byte at an index of a queue is lost (R40 `lossy`, U18). -/
  | chDelete (d : Dir) (i : Nat)
  /-- The byte at an index of a queue is altered (R40 `lossy`). -/
  | chAlter (d : Dir) (i : Nat) (b : Byte)
  /-- A byte is inserted into a queue (R40 `lossy`). -/
  | chInsert (d : Dir) (i : Nat) (b : Byte)
deriving DecidableEq, Repr

/-- One move of the whole system: an engine takes its next row, or the environment acts (log 1). -/
inductive Move where
  | run (a : Agent)
  | env (e : EnvMove)
deriving DecidableEq, Repr

/-- Everything the spec gives the machine, the inputs waiting at its ports, and the model's own
bookkeeping (`script`, `turn`, `trace`; log 1, log 18). -/
structure State where
  params : Params
  pe : Pe
  hd : Hd
  /-- The host-to-peripheral queue, head first (R40). -/
  h2p : List Byte
  /-- The peripheral-to-host queue, head first (R40). -/
  p2h : List Byte
  /-- The allocator's answers in call order (R15; log 7). -/
  allocQ : List Bool
  /-- The ADC samples ready, oldest first (R135; log 7). -/
  adcQ : List Byte
  /-- How many write-capability calls may return (R28 `devw_done`; log 7). -/
  devwQ : Nat
  /-- The operator's `start` is given and not yet taken (R38 `op_start`; log 10). -/
  opStart : Bool
  /-- The operator's `retry` is given and not yet taken (R38 `op_retry`; log 10). -/
  opRetry : Bool
  /-- The moves to come (log 1). -/
  script : List Move
  /-- Which engine moves when `script` is empty (log 1). -/
  turn : Agent
  /-- The events performed, oldest first (R17; log 18). -/
  trace : List (Agent × Event)
deriving DecidableEq, Repr

/-- Why the machine stops. None of these is an error cause of the protocol: those are next states (R246, R248). -/
inductive Fault where
  /-- Raised when a PE register, its counter, or a byte of `BUF` is read while it holds no value (R13, R27, U12). Safe. -/
  | noValue
  /-- Raised when the host reads a byte of its frame store, or its counter, that holds no value (R13, R34, R283; log 4). Safe. -/
  | storeNotLoaded
  /-- Raised when a counter is outside the range of R22 and R32, so that no row of R151 or R201 has its guard; no run reaches it. Safe. -/
  | counterOutOfRange
  /-- Raised by a meaning executed in a state its instruction is not read in (R92; log 15); `step` never does so. Safe. -/
  | outOfPosition
deriving DecidableEq, Repr

/-- Why the model does not take a move. -/
inductive Refusal where
  /-- Raised by `exec` for an instruction that has no meaning yet. Safe. -/
  | notModelled (mnemonic : String)
  /-- Raised by a channel fault the configured channel does not admit (R40, D3, U18; log 11). Safe. -/
  | channelFaultNotAdmitted
  /-- Raised by a store load while the host is not in `Idle` (R34, U19). Safe. -/
  | storeLoadOutsideIdle
  /-- Raised by a store load that is no whole frame definition (R34; log 5). Safe. -/
  | storeLoadNotAFrame
deriving DecidableEq, Repr

/-- The PeripheralEngine's reset state (R39). -/
def Pe.reset : Pe :=
  { state := .waitStart, cnt := none, id := none, len := none, mode := none,
    rsv0 := none, rsv1 := none, rsv2 := none, rsv3 := none,
    alloc := false, buf := [], evt := none, bufRelease := false }

/-- The HostDriver's reset state but for the frame store, which reset does not change (R39). -/
def Hd.resetKeeping (hfs : Memory) : Hd :=
  { state := .idle, cnt := none, lastAck := none, hfs := hfs, hrx := [], rpt := none }

/-- The default values of the open parameters (R9). -/
def Params.default : Params :=
  { allocModel := .oracle, channelModel := .ideal, rxDepthPe := none, rxDepthHd := none, backPressure := false }

/-- Both engines just reset (R39), nothing loaded, nothing in flight, no input waiting (log 1, 4, 7, 10, 12, 16, 18). -/
def State.reset : State :=
  { params := Params.default, pe := Pe.reset, hd := Hd.resetKeeping [],
    h2p := [], p2h := [], allocQ := [], adcQ := [], devwQ := 0,
    opStart := false, opRetry := false, script := [], turn := .pe, trace := [] }

end Sys2Proof.Machine
end

