-- ==== Sys2Proof/Machine/Memory.lean ====
section
/-! DEFINITION. The byte stores `BUF`, `HFS`, `HRX`: read, write and the bulk forms the rows use (R14, R55, R57). -/

namespace Sys2Proof.Machine

/-- `MemRead(m, a, 1)` (R14): the byte at an address, or nothing where it holds no value (R27). -/
def Memory.read : Memory → Nat → Option Byte
  | [], _ => none
  | (a', b') :: m, a => if a = a' then some b' else Memory.read m a

/-- `MemWrite(m, a, 1, b)` (R14), keeping the addresses strictly rising. -/
def Memory.write : Memory → Nat → Byte → Memory
  | [], a, b => [(a, b)]
  | (a', b') :: m, a, b =>
    if a < a' then (a, b) :: (a', b') :: m
    else if a = a' then (a, b) :: m
    else (a', b') :: Memory.write m a b

/-- Bytes written in index order from an address on (R52, row T13). -/
def Memory.writeSeq : Memory → Nat → List Byte → Memory
  | m, _, [] => m
  | m, a, b :: bs => Memory.writeSeq (Memory.write m a b) (a + 1) bs

/-- `m[a..a+n-1]` in index order, or nothing if one of them holds no value (R12, row T11). -/
def Memory.readSeq : Memory → Nat → Nat → Option (List Byte)
  | _, _, 0 => some []
  | m, a, n + 1 =>
    match Memory.read m a, Memory.readSeq m (a + 1) n with
    | some b, some bs => some (b :: bs)
    | _, _ => none

/-- The bytes at and above an address leave their live range (R35). -/
def Memory.truncate (m : Memory) (n : Nat) : Memory := m.filter (fun c => c.1 < n)

/-- A store that holds just these bytes, from address 0 on (R34). -/
def Memory.ofBytes (bs : List Byte) : Memory := Memory.writeSeq [] 0 bs

/-- Whether a frame store holds every byte of its frame definition: header, `HFS[2]` payload bytes,
stop byte (R34). -/
def Memory.frameLoaded (m : Memory) : Bool :=
  match Memory.read m 2 with
  | some len => (Memory.readSeq m 0 (9 + len.toNat)).isSome
  | none => false

end Sys2Proof.Machine
end

