-- ==== Sys2Proof/Machine/Operands.lean ====
section
/-! DEFINITION. How each operand is obtained (R89, R118), the store addresses (R56, R120), the codes of the ports (R29, R213). -/

namespace Sys2Proof.Machine

/-- `device_of` (R118): the low two bits of the identifier. -/
def deviceOf (id : Byte) : DevId := (id &&& Config.devMask).setWidth 2

/-- The board bits of the identifier, unshifted (R89). -/
def boardOf (id : Byte) : Byte := id &&& Config.boardMask

/-- The address in `HFS` of header byte `cnt` (row H2a). -/
def hfsHeaderAddr (cnt : Cnt) : Nat := cnt.toNat

/-- The address in `HFS` of payload byte `cnt`, `8 + cnt` in nine bits (R120, row H5a). -/
def hfsPayloadAddr (cnt : Cnt) : Nat := ((8 : BitVec 9) + cnt).toNat

/-- The address in `HFS` of the stop byte, `8 + len` in nine bits (R34, R120). -/
def hfsStopAddr (len : Byte) : Nat := ((8 : BitVec 9) + Cnt.ofByte len).toNat

/-- The status a cause raises (R29, R241). -/
def Cause.status : Cause → Status
  | .badBoardId => .badBoardId
  | .badMode => .badMode
  | .allocationFailure => .allocationFailure
  | .stopByteError => .stopByteError
  | .transportError => .transportError

/-- `evt_code` (R29). -/
def Status.code : Status → BitVec 4
  | .frameDoneWrite => 0x0
  | .badBoardId => 0x1
  | .badMode => 0x2
  | .allocationFailure => 0x3
  | .stopByteError => 0x4
  | .transportError => 0x5
  | .frameDoneRead => 0x6

/-- `rpt_code` (R213). -/
def Report.code : Report → BitVec 2
  | .success => 0
  | .headerNack => 1
  | .stopBitsError => 2
  | .transportFatal => 3

/-- The other engine. -/
def Agent.other : Agent → Agent
  | .pe => .hd
  | .hd => .pe

end Sys2Proof.Machine
end

