-- ==== Sys2Proof/Machine/Ops.lean ====
section
/-! DEFINITION. The named operations over registers, buffer, channel and trace; taking an error cause and returning from it. -/

namespace Sys2Proof.Machine

/-- What a row answers. -/
abbrev Out := Host.Outcome State Fault Refusal

/-! Updates of one field each. -/

def Pe.goto (st : PeState) (p : Pe) : Pe := { p with state := st }
def Pe.setCnt (c : Option Cnt) (p : Pe) : Pe := { p with cnt := c }
def Pe.setAlloc (a : Bool) (p : Pe) : Pe := { p with alloc := a }
def Pe.setBuf (m : Memory) (p : Pe) : Pe := { p with buf := m }
def Pe.setEvt (e : Option Status) (p : Pe) : Pe := { p with evt := e }
def Pe.setBufRelease (r : Bool) (p : Pe) : Pe := { p with bufRelease := r }

def Hd.goto (st : HdState) (h : Hd) : Hd := { h with state := st }
def Hd.setCnt (c : Option Cnt) (h : Hd) : Hd := { h with cnt := c }
def Hd.setLastAck (b : Option Byte) (h : Hd) : Hd := { h with lastAck := b }
def Hd.setHfs (m : Memory) (h : Hd) : Hd := { h with hfs := m }
def Hd.setHrx (m : Memory) (h : Hd) : Hd := { h with hrx := m }
def Hd.setRpt (r : Option Report) (h : Hd) : Hd := { h with rpt := r }

def State.setPe (p : Pe) (s : State) : State := { s with pe := p }
def State.setHd (h : Hd) (s : State) : State := { s with hd := h }
def State.setH2p (q : List Byte) (s : State) : State := { s with h2p := q }
def State.setP2h (q : List Byte) (s : State) : State := { s with p2h := q }
def State.setAllocQ (q : List Bool) (s : State) : State := { s with allocQ := q }
def State.setAdcQ (q : List Byte) (s : State) : State := { s with adcQ := q }
def State.setDevwQ (n : Nat) (s : State) : State := { s with devwQ := n }
def State.setOpStart (b : Bool) (s : State) : State := { s with opStart := b }
def State.setOpRetry (b : Bool) (s : State) : State := { s with opRetry := b }
def State.setScript (ms : List Move) (s : State) : State := { s with script := ms }
def State.setTurn (a : Agent) (s : State) : State := { s with turn := a }

/-- An engine performs an event (R17, R61). -/
def State.log (a : Agent) (e : Event) (s : State) : State := { s with trace := s.trace ++ [(a, e)] }

/-! Control (R22, R32): `pe.state <- S` and `hd.state <- S`; a counter outside its live range holds no value (R27; log 3). -/

/-- `pe.state <- S`, into a state in which `pe.cnt` is not live. -/
def State.peGoto (st : PeState) (s : State) : State := s.setPe ((s.pe.setCnt none).goto st)

/-- `pe.cnt <- c` and `pe.state <- S`, into a state in which `pe.cnt` is live. -/
def State.peCount (st : PeState) (c : Cnt) (s : State) : State := s.setPe ((s.pe.setCnt (some c)).goto st)

/-- `hd.state <- S`, into a state in which `hd.cnt` is not live. -/
def State.hdGoto (st : HdState) (s : State) : State := s.setHd ((s.hd.setCnt none).goto st)

/-- `hd.cnt <- c` and `hd.state <- S`, into a state in which `hd.cnt` is live. -/
def State.hdCount (st : HdState) (c : Cnt) (s : State) : State := s.setHd ((s.hd.setCnt (some c)).goto st)

/-- The peripheral enters `WaitStart`: the header registers leave their live range (R27). -/
def State.peWaitStart (s : State) : State :=
  s.setPe { s.pe with
    state := .waitStart, cnt := none, id := none, len := none, mode := none,
    rsv0 := none, rsv1 := none, rsv2 := none, rsv3 := none }

/-- A register or byte that must hold a value to be read (R13, U12). -/
def need {α : Type} (o : Option α) (f : Fault) (k : α → Out) : Out :=
  match o with
  | some a => k a
  | none => .fault f

/-! The channel (R15, R40). A primitive that cannot complete leaves the engine waiting: no state changes (R290, U5; log 8). -/

/-- `rx_ready` of the peripheral (R28): 1 exactly in the five receiving states. -/
def State.peRxReady (s : State) : Bool :=
  match s.pe.state with
  | .waitStart | .readHeader | .wPayload | .wStop | .rStop => true
  | _ => false

/-- `rx_ready` of the host (R38). -/
def State.hdRxReady (s : State) : Bool :=
  match s.hd.state with
  | .waitHdrAck | .wWaitFinal | .rRecvPayload | .rWaitFinal => true
  | _ => false

/-- A queue of the channel. -/
def State.queue (d : Dir) (s : State) : List Byte :=
  match d with
  | .h2p => s.h2p
  | .p2h => s.p2h

/-- The receive FIFO's depth in a direction (R9, R293). -/
def State.rxDepth (d : Dir) (s : State) : Option Nat :=
  match d with
  | .h2p => s.params.rxDepthPe
  | .p2h => s.params.rxDepthHd

/-- Whether the engine at the receiving end of a direction is receiving (R28, R38). -/
def State.receives (d : Dir) (s : State) : Bool :=
  match d with
  | .h2p => s.peRxReady
  | .p2h => s.hdRxReady

/-- Whether the Transport accepts a byte: only under back-pressure does a full receive FIFO hold the sender back; an empty
line to an engine that is receiving takes a byte at any depth, 0 included (R293; log 12). -/
def State.hasRoom (d : Dir) (s : State) : Bool :=
  !s.params.backPressure || (s.rxDepth d).all fun n =>
    (s.queue d).length < n || (s.queue d).isEmpty && s.receives d

/-- `XportSend(PE, b)` (R15, R40), then the rest of the row. -/
def peSend (b : Byte) (k : State → Out) (s : State) : Out :=
  if s.hasRoom .p2h then k ((s.setP2h (s.p2h ++ [b])).log .pe (.tx b)) else .next s

/-- `XportSend(HD, b)` (R15, R40), then the rest of the row. -/
def hdSend (b : Byte) (k : State → Out) (s : State) : Out :=
  if s.hasRoom .h2p then k ((s.setH2p (s.h2p ++ [b])).log .hd (.tx b)) else .next s

/-- `b <- XportRecv(PE)` (R15, R40), then the rest of the row. -/
def peRecv (k : Byte → State → Out) (s : State) : Out :=
  match s.h2p with
  | [] => .next s
  | b :: q => k b ((s.setH2p q).log .pe (.rx b))

/-- `b <- XportRecv(HD)` (R15, R40), then the rest of the row. -/
def hdRecv (k : Byte → State → Out) (s : State) : Out :=
  match s.p2h with
  | [] => .next s
  | b :: q => k b ((s.setP2h q).log .hd (.rx b))

/-- The token byte `b` at the head of `h2p` is received (R92). -/
def peTake (b : Byte) (k : State → Out) (s : State) : Out :=
  match s.h2p with
  | [] => .next s
  | _ :: q => k ((s.setH2p q).log .pe (.rx b))

/-- The acknowledgment byte `b` at the head of `p2h` is received and kept in `hd.last_ack` (R33, R205, R209). -/
def hdTakeAck (b : Byte) (k : State → Out) (s : State) : Out :=
  match s.p2h with
  | [] => .next s
  | _ :: q =>
    k (((s.setP2h q).log .hd (.rx b)).setHd (s.hd.setLastAck (some b)))

/-! The buffer (R24). -/

/-- `Release()` and `pe.alloc <- 0` (R15, R24): afterwards `BUF` holds no value (R27). -/
def State.release (s : State) : State :=
  (s.log .pe .release).setPe (((s.pe.setBuf []).setAlloc false).setBufRelease true)

/-- `if pe.alloc == 1 then Release(), pe.alloc <- 0` (rows T6, T17). -/
def State.releaseIfHeld (s : State) : State := if s.pe.alloc then s.release else s

/-- The allocator's answer to `Alloc`, or nothing while it has not answered (R158, R9, D5; log 7). DESIGN CHOICE (log 23): under
`never_fails` it is true at once; the model has no wait there and takes no queued answer. -/
def State.allocAnswer (s : State) : Option (Bool × State) :=
  match s.params.allocModel with
  | .neverFails => some (true, s)
  | .oracle =>
    match s.allocQ with
    | [] => none
    | a :: q => some (a, s.setAllocQ q)

/-! The error causes (R240, R246, R248). -/

/-- `raise <Cause>(info)` for the four recoverable causes (R246 steps 1 and 2): the status event, then `SendNack`. Nothing is saved. -/
def State.raise (c : Cause) (info : Byte) (s : State) : State :=
  ((s.log .pe (.err c (some info))).setPe (s.pe.setEvt (some c.status))).peGoto .sendNack

/-- The rest of the entry and the return (R246 steps 2 to 4, R247; row T6): one `NACK`, the buffer released if held,
and the engine scans again from `WaitStart`. -/
def rowSendNack (s : State) : Out :=
  peSend Config.nack (fun s => .next s.releaseIfHeld.peWaitStart) s

/-- `TransportError` on the peripheral (R248, R175; row T17): event, release if held, `Halted`. -/
def State.peTransportError (s : State) : State :=
  (((s.log .pe (.err .transportError none)).setPe
    (s.pe.setEvt (some .transportError))).releaseIfHeld).peGoto .halted

/-- The host's report (R213). -/
def State.hdReport (r : Report) (s : State) : State :=
  (s.log .hd (.report r)).setHd (s.hd.setRpt (some r))

/-- `TransportError` on the host (R248, R210; row H11): report, `Fatal`. -/
def State.hdTransportError (s : State) : State :=
  (((s.hdReport .transportFatal).setOpStart false).setOpRetry false).hdGoto .fatal

/-! The one-cycle pulses drop when their engine next moves (R28, R29, R38; log 9). -/

/-- `evt_valid` and `buf_release` back to 0. -/
def State.dropPePulses (s : State) : State := s.setPe ((s.pe.setEvt none).setBufRelease false)

/-- `rpt_valid` back to 0. -/
def State.dropHdPulses (s : State) : State := s.setHd (s.hd.setRpt none)

end Sys2Proof.Machine
end

