-- ==== Sys2Proof/Machine/Registry.lean ====
section
/-! DEFINITION. The DeviceRegistry: two total functions of a 2-bit device-id (R130 to R132), and the lines of the LCD (R133). -/

namespace Sys2Proof.Machine

/-- `select_write` (R130, R131): 0 is the LED, every other id the LCD. -/
def selectWrite (d : DevId) : Capability := if d = Config.devLed then .led else .lcd

/-- `select_read` (R130, R132): the ADC whatever the id. -/
def selectRead (_ : DevId) : Capability := .adc

/-- The payload bytes that belong to LCD line `k`, counted from 0 (R133): bytes 0 to 7 are line 1, 8 to 15 line 2. -/
def lcdLine (k : Nat) (bytes : List Byte) : List Byte :=
  if k < Config.lcdLines then (bytes.drop (k * Config.lcdLineBytes)).take Config.lcdLineBytes else []

end Sys2Proof.Machine
end

