-- ==== Sys2Proof/Machine/Peripheral.lean ====
section
/-! DEFINITION. The rows of the PeripheralEngine's transition table R151 that execute a header, and the header fetch. -/

namespace Sys2Proof.Machine

/-- The byte received when `pe.cnt` is `k` is the header byte at wire offset `k` (R154). -/
def Pe.storeHeader (k : Nat) (b : Byte) (p : Pe) : Pe :=
  match k with
  | 1 => { p with id := some b }
  | 2 => { p with len := some b }
  | 3 => { p with mode := some b }
  | 4 => { p with rsv0 := some b }
  | 5 => { p with rsv1 := some b }
  | 6 => { p with rsv2 := some b }
  | 7 => { p with rsv3 := some b }
  | _ => p

/-- Rows T2a, T2b (R154): one header byte, never examined; after the seventh, `ValidateBoard`. -/
def rowReadHeader (s : State) : Out :=
  need s.pe.cnt .noValue fun c =>
    if 1 ≤ c.toNat ∧ c.toNat ≤ 7 then
      peRecv (fun b s =>
        let s' := s.setPe (s.pe.storeHeader c.toNat b)
        if c.toNat < 7 then .next (s'.peCount .readHeader (c + 1))
        else .next (s'.peGoto .validateBoard)) s
    else .fault .counterOutOfRange

/-- Rows T3a, T3b (R156). -/
def rowValidateBoard (id : Byte) (s : State) : Out :=
  if validateBoard id then .next (s.peGoto .validateMode) else .next (s.raise .badBoardId id)

/-- Rows T4a, T4b (R157). -/
def rowValidateMode (mode : Byte) (s : State) : Out :=
  if validateMode mode then .next (s.peGoto .allocateBuffer) else .next (s.raise .badMode mode)

/-- Rows T5a, T5b (R158, R159). -/
def rowAllocate (len mode : Byte) (s : State) : Out :=
  match s.allocAnswer with
  | none => .next s
  | some (true, s') =>
    let held := (s'.log .pe (.alloc len true)).setPe (s'.pe.setAlloc true)
    .next (held.peGoto (if mode = Config.modeRead then .rHdrAck else .wHdrAck))
  | some (false, s') => .next ((s'.log .pe (.alloc len false)).raise .allocationFailure len)

/-- Row T7 (R160). -/
def rowWHdrAck (s : State) : Out :=
  peSend Config.ack (fun s => .next (s.peCount .wPayload 0)) s

/-- Rows T8a, T8b (R161). -/
def rowWPayload (len : Byte) (s : State) : Out :=
  need s.pe.cnt .noValue fun c =>
    if c < Cnt.ofByte len then
      peRecv (fun b s =>
        .next ((s.setPe (s.pe.setBuf (s.pe.buf.write c.toNat b))).peCount .wPayload (c + 1))) s
    else if c = Cnt.ofByte len then .next (s.peGoto .wStop)
    else .fault .counterOutOfRange

/-- Row T10 (R165). -/
def rowWFinalAck (s : State) : Out :=
  peSend Config.ack (fun s => .next (s.peGoto .wDispatch)) s

/-- Row T11 (R166, R136): one call of the capability `select_write` selects (R130), with the whole payload, then the release. -/
def rowWDispatch (d : DevId) (len : Byte) (s : State) : Out :=
  match s.devwQ with
  | 0 => .next s
  | n + 1 =>
    need (s.pe.buf.readSeq 0 len.toNat) .noValue fun bytes =>
      let done := ((s.setDevwQ n).log .pe (.devw (selectWrite d) d bytes)).release
      .next (done.setPe (done.pe.setEvt (some .frameDoneWrite))).peWaitStart

/-- Row T12 (R167). -/
def rowRHdrAck (s : State) : Out :=
  peSend Config.ack (fun s => .next (s.peGoto .rFill)) s

/-- Row T13 (R168, R135): one call of the capability `select_read` selects (R130); all its bytes are stored before any is sent. -/
def rowRFill (d : DevId) (len : Byte) (s : State) : Out :=
  if len.toNat ≤ s.adcQ.length then
    let bytes := s.adcQ.take len.toNat
    let filled := ((s.setAdcQ (s.adcQ.drop len.toNat)).log .pe (.devr (selectRead d) d len bytes)).setPe
      (s.pe.setBuf (s.pe.buf.writeSeq 0 bytes))
    .next (filled.peCount .rStream 0)
  else .next s

/-- Rows T14a, T14b (R169). -/
def rowRStream (len : Byte) (s : State) : Out :=
  need s.pe.cnt .noValue fun c =>
    if c < Cnt.ofByte len then
      need (s.pe.buf.read c.toNat) .noValue fun b =>
        peSend b (fun s => .next (s.peCount .rStream (c + 1))) s
    else if c = Cnt.ofByte len then .next (s.release.peGoto .rStop)
    else .fault .counterOutOfRange

/-- Row T16 (R174). -/
def rowRFinalAck (s : State) : Out :=
  peSend Config.ack (fun s =>
    .next (s.setPe (s.pe.setEvt (some .frameDoneRead))).peWaitStart) s

/-- The row of R151 that a header with these fields executes in the state the engine is in. The receiving
states `WaitStart`, `ReadHeader`, `W_Stop`, `R_Stop` read a byte, not the header (R92), and in `Halted` no step
is enabled (T18): a header has no row there (log 15). -/
def peHeaderRow (id len mode : Byte) (s : State) : Out :=
  match s.pe.state with
  | .validateBoard => rowValidateBoard id s
  | .validateMode => rowValidateMode mode s
  | .allocateBuffer => rowAllocate len mode s
  | .sendNack => rowSendNack s
  | .wHdrAck => rowWHdrAck s
  | .wPayload => rowWPayload len s
  | .wFinalAck => rowWFinalAck s
  | .wDispatch => rowWDispatch (deviceOf id) len s
  | .rHdrAck => rowRHdrAck s
  | .rFill => rowRFill (deviceOf id) len s
  | .rStream => rowRStream len s
  | .rFinalAck => rowRFinalAck s
  | .waitStart => .fault .outOfPosition
  | .readHeader => .fault .outOfPosition
  | .wStop => .fault .outOfPosition
  | .rStop => .fault .outOfPosition
  | .halted => .fault .outOfPosition

end Sys2Proof.Machine
end

