-- ==== Sys2Proof/Machine/Header.lean ====
section
/-! DEFINITION. The meanings of the header instructions (R156, R157, R171, R172, R173): each executes, row by row, the
table R151 with its own header fields (log 14). -/

namespace Sys2Proof.Machine

/-- `READ.ADC` (R171): identifier 0x00 to 0x03, mode 0x01. The reserved bytes are not interpreted (R85). -/
def execReadAdc (dev : DevId) (len : Byte) (s : State) : Host.Outcome State Fault Refusal :=
  peHeaderRow (dev.setWidth 8) len 0x01 s

/-- `WRITE.LED` (R172): identifier 0x00, mode 0x02. -/
def execWriteLed (len : Byte) (s : State) : Host.Outcome State Fault Refusal :=
  peHeaderRow 0x00 len 0x02 s

/-- `WRITE.LCD`, device 1 (R173): identifier 0x01, mode 0x02. -/
def execWriteLcd1 (len : Byte) (s : State) : Host.Outcome State Fault Refusal :=
  peHeaderRow 0x01 len 0x02 s

/-- `WRITE.LCD`, device 2 (R173): identifier 0x02, mode 0x02. -/
def execWriteLcd2 (len : Byte) (s : State) : Host.Outcome State Fault Refusal :=
  peHeaderRow 0x02 len 0x02 s

/-- `WRITE.LCD`, device 3 (R173): identifier 0x03, mode 0x02. -/
def execWriteLcd3 (len : Byte) (s : State) : Host.Outcome State Fault Refusal :=
  peHeaderRow 0x03 len 0x02 s

/-- `HDR.BADMODE` (R157): board bits good, mode neither Read nor Write. -/
def execHdrBadMode (dev : DevId) (len mode : Byte) (s : State) : Host.Outcome State Fault Refusal :=
  peHeaderRow (dev.setWidth 8) len mode s

/-- `HDR.BADBOARD` (R156): board bits not `BID`. -/
def execHdrBadBoard (id len mode : Byte) (s : State) : Host.Outcome State Fault Refusal :=
  peHeaderRow id len mode s

end Sys2Proof.Machine
end

