-- ==== Sys2Proof/Machine/HostFrame.lean ====
section
/-! DEFINITION. The meanings of HOST.READ and HOST.WRITE (R214, R215): the rows of R201 that a stored frame executes. -/

namespace Sys2Proof.Machine

/-- Row H1 (R204): the operator's `start` is taken. -/
def rowIdle (s : State) : Out :=
  if s.opStart then .next (((s.setOpStart false).log .hd (.op .start)).hdCount .sendHeader 0) else .next s

/-- Rows H2a, H2b (R203): the eight stored header bytes, as stored. -/
def rowSendHeader (s : State) : Out :=
  need s.hd.cnt .storeNotLoaded fun c =>
    if c.toNat ≤ 7 then
      need (s.hd.hfs.read (hfsHeaderAddr c)) .storeNotLoaded fun b =>
        hdSend b (fun s =>
          if c.toNat < 7 then .next (s.hdCount .sendHeader (c + 1)) else .next (s.hdGoto .waitHdrAck)) s
    else .fault .counterOutOfRange

/-- Row H4 (R206): the operator's `retry` is taken; the same header is sent again. -/
def rowRetryPrompt (s : State) : Out :=
  if s.opRetry then .next (((s.setOpRetry false).log .hd (.op .retry)).hdCount .sendHeader 0) else .next s

/-- Rows H5a, H5b (R207). -/
def rowWSendPayload (len : Byte) (s : State) : Out :=
  need s.hd.cnt .storeNotLoaded fun c =>
    if c < Cnt.ofByte len then
      need (s.hd.hfs.read (hfsPayloadAddr c)) .storeNotLoaded fun b =>
        hdSend b (fun s => .next (s.hdCount .wSendPayload (c + 1))) s
    else if c = Cnt.ofByte len then .next (s.hdGoto .wSendStop)
    else .fault .counterOutOfRange

/-- Row H6 (R207): the stored stop byte, whatever its value. -/
def rowWSendStop (len : Byte) (s : State) : Out :=
  need (s.hd.hfs.read (hfsStopAddr len)) .storeNotLoaded fun b =>
    hdSend b (fun s => .next (s.hdGoto .wWaitFinal)) s

/-- Rows H8a, H8b (R208). When the last byte is in, the bytes of `HRX` at and above `len` hold no value (R35; log 6). -/
def rowRRecvPayload (len : Byte) (s : State) : Out :=
  need s.hd.cnt .storeNotLoaded fun c =>
    if c < Cnt.ofByte len then
      hdRecv (fun b s =>
        .next ((s.setHd (s.hd.setHrx (s.hd.hrx.write c.toNat b))).hdCount .rRecvPayload (c + 1))) s
    else if c = Cnt.ofByte len then
      .next ((s.setHd (s.hd.setHrx (s.hd.hrx.truncate len.toNat))).hdGoto .rSendStop)
    else .fault .counterOutOfRange

/-- Row H9 (R208). -/
def rowRSendStop (len : Byte) (s : State) : Out :=
  need (s.hd.hfs.read (hfsStopAddr len)) .storeNotLoaded fun b =>
    hdSend b (fun s => .next (s.hdGoto .rWaitFinal)) s

/-- The row of R201 that a stored frame of this payload length executes in the state the driver is in. The
acknowledgment waits read a byte, not the store (R92), and in `Fatal` no step is enabled (H12; log 15). -/
def hdStoreRow (len : Byte) (s : State) : Out :=
  match s.hd.state with
  | .idle => rowIdle s
  | .sendHeader => rowSendHeader s
  | .retryPrompt => rowRetryPrompt s
  | .wSendPayload => rowWSendPayload len s
  | .wSendStop => rowWSendStop len s
  | .rRecvPayload => rowRRecvPayload len s
  | .rSendStop => rowRSendStop len s
  | .waitHdrAck => .fault .outOfPosition
  | .wWaitFinal => .fault .outOfPosition
  | .rWaitFinal => .fault .outOfPosition
  | .fatal => .fault .outOfPosition

/-- `HOST.READ` (R215): a stored frame with mode 0x01. -/
def execHostRead (len : Byte) (s : State) : Host.Outcome State Fault Refusal := hdStoreRow len s

/-- `HOST.WRITE` (R214): a stored frame with any other mode. -/
def execHostWrite (len : Byte) (s : State) : Host.Outcome State Fault Refusal := hdStoreRow len s

end Sys2Proof.Machine
end

