-- ==== Sys2Proof/Machine/Token.lean ====
section
/-! DEFINITION. The meanings of the single-byte tokens (R92): START and DISCARD in `WaitStart`, STOP and STOP.BAD at the
stop position, ACK, NACK and NACK.OTHER at the host's acknowledgment positions. A token has no meaning at another position (log 15). -/

namespace Sys2Proof.Machine

/-- `START` (R153, row T1a). -/
def execStart (s : State) : Host.Outcome State Fault Refusal :=
  match s.pe.state with
  | .waitStart => peTake Config.start (fun s => .next (s.peCount .readHeader 1)) s
  | _ => .fault .outOfPosition

/-- `DISCARD` (R153, row T1b): consumed and dropped, no response, no event but the receive itself. -/
def execDiscard (b : Byte) (s : State) : Host.Outcome State Fault Refusal :=
  match s.pe.state with
  | .waitStart => peTake b (fun s => .next s) s
  | _ => .fault .outOfPosition

/-- `STOP` (R163, R170, rows T9a, T15a). -/
def execStop (s : State) : Host.Outcome State Fault Refusal :=
  match s.pe.state with
  | .wStop => peTake Config.stop (fun s => .next (s.peGoto .wFinalAck)) s
  | .rStop => peTake Config.stop (fun s => .next (s.peGoto .rFinalAck)) s
  | _ => .fault .outOfPosition

/-- `STOP.BAD` (R164, R170, R249, rows T9b, T15b): raises `StopByteError`. -/
def execStopBad (b : Byte) (s : State) : Host.Outcome State Fault Refusal :=
  match s.pe.state with
  | .wStop => peTake b (fun s => .next (s.raise .stopByteError b)) s
  | .rStop => peTake b (fun s => .next (s.raise .stopByteError b)) s
  | _ => .fault .outOfPosition

/-- An acknowledgment byte at the host (R205, R209, R211; rows H3a to H3c, H7, H10): kept in `hd.last_ack`; whether it is
0x0F and where it is received choose the branch and the report. -/
def hdAckRow (b : Byte) (s : State) : Out :=
  match s.hd.state with
  | .waitHdrAck =>
    if isAck b then
      need (s.hd.hfs.read 3) .storeNotLoaded fun mode =>
        hdTakeAck b (fun s =>
          .next (s.hdCount (if mode = Config.modeRead then .rRecvPayload else .wSendPayload) 0)) s
    else hdTakeAck b (fun s => .next ((s.hdReport .headerNack).hdGoto .retryPrompt)) s
  | .wWaitFinal =>
    hdTakeAck b (fun s => .next ((s.hdReport (if isAck b then .success else .stopBitsError)).hdGoto .idle)) s
  | .rWaitFinal =>
    hdTakeAck b (fun s => .next ((s.hdReport (if isAck b then .success else .stopBitsError)).hdGoto .idle)) s
  | _ => .fault .outOfPosition

/-- `ACK` (R205, R209). -/
def execAck (s : State) : Host.Outcome State Fault Refusal := hdAckRow Config.ack s

/-- `NACK` (R205, R209). -/
def execNack (s : State) : Host.Outcome State Fault Refusal := hdAckRow Config.nack s

/-- `NACK.OTHER` (R205, R209): handled as `NACK`. -/
def execNackOther (b : Byte) (s : State) : Host.Outcome State Fault Refusal := hdAckRow b s

end Sys2Proof.Machine
end

