-- ==== Sys2Proof/Syntax.lean ====
section
/-! DEFINITION. The instructions: one constructor per row of spec/opcode_table.json (R3, R4, R91, R92, R93). -/

namespace Sys2Proof

/-- Where a pattern of the operation map applies (R99): a byte's meaning is fixed by its position (R92). -/
inductive Context where
  /-- `pe.header`: the eight header bytes the peripheral has received. -/
  | peHeader
  /-- `pe.waitstart`: a byte received in `WaitStart`. -/
  | peWaitStart
  /-- `pe.stop`: a byte received in `W_Stop` or `R_Stop`. -/
  | peStop
  /-- `hd.ack`: a byte received by the host in `WaitHdrAck`, `W_WaitFinal` or `R_WaitFinal`. -/
  | hdAck
  /-- `hd.framestore`: the eight header bytes of the host's frame store. -/
  | hdFrameStore
deriving DecidableEq, Repr

/-- One constructor per row of the opcode table. Operands are the fields R89 names; a catch-all row
carries the byte or field its pattern leaves free. -/
inductive Instr where
  /-- `READ.ADC`, table row 1 of `pe.header` (R171). -/
  | readAdc (dev : DevId) (len : Byte) (rsv : Rsv)
  /-- `WRITE.LED`, row 2: identifier 0x00, mode 0x02 (R172). -/
  | writeLed (len : Byte) (rsv : Rsv)
  /-- `WRITE.LCD`, row 3: identifier 0x01, mode 0x02 (R173). -/
  | writeLcd1 (len : Byte) (rsv : Rsv)
  /-- `WRITE.LCD`, row 4: identifier 0x02, mode 0x02 (R173). -/
  | writeLcd2 (len : Byte) (rsv : Rsv)
  /-- `WRITE.LCD`, row 5: identifier 0x03, mode 0x02 (R173). -/
  | writeLcd3 (len : Byte) (rsv : Rsv)
  /-- `HDR.BADMODE`, row 6: board bits good, mode neither 0x01 nor 0x02 (R157). -/
  | hdrBadMode (dev : DevId) (len mode : Byte) (rsv : Rsv)
  /-- `HDR.BADBOARD`, row 7: board bits not `BID` (R156). -/
  | hdrBadBoard (id len mode : Byte) (rsv : Rsv)
  /-- `START` in `pe.waitstart` (R153). -/
  | start
  /-- `DISCARD` in `pe.waitstart`: any byte but 0xFE (R153). -/
  | discard (b : Byte)
  /-- `STOP` in `pe.stop` (R163, R170). -/
  | stop
  /-- `STOP.BAD` in `pe.stop`: any byte but 0x01 (R164, R170). -/
  | stopBad (b : Byte)
  /-- `ACK` in `hd.ack` (R205, R209). -/
  | ack
  /-- `NACK` in `hd.ack` (R205, R209). -/
  | nack
  /-- `NACK.OTHER` in `hd.ack`: any byte but 0x0F and 0xF0 (R205, R209). -/
  | nackOther (b : Byte)
  /-- `HOST.READ` in `hd.framestore`: stored mode 0x01 (R215). -/
  | hostRead (start id len : Byte) (rsv : Rsv)
  /-- `HOST.WRITE` in `hd.framestore`: any other stored mode (R214). -/
  | hostWrite (start id len mode : Byte) (rsv : Rsv)
deriving DecidableEq, Repr

/-- The position an instruction is read at (the table's `context`, R99). -/
def Instr.context : Instr → Context
  | .readAdc _ _ _ => .peHeader
  | .writeLed _ _ => .peHeader
  | .writeLcd1 _ _ => .peHeader
  | .writeLcd2 _ _ => .peHeader
  | .writeLcd3 _ _ => .peHeader
  | .hdrBadMode _ _ _ _ => .peHeader
  | .hdrBadBoard _ _ _ _ => .peHeader
  | .start => .peWaitStart
  | .discard _ => .peWaitStart
  | .stop => .peStop
  | .stopBad _ => .peStop
  | .ack => .hdAck
  | .nack => .hdAck
  | .nackOther _ => .hdAck
  | .hostRead _ _ _ _ => .hdFrameStore
  | .hostWrite _ _ _ _ _ => .hdFrameStore

end Sys2Proof
end

