-- ==== Sys2Proof/Machine/Dispatch.lean ====
section
/-! DEFINITION. One arm per constructor of Instr: the meaning each instruction is given. -/

namespace Sys2Proof.Machine

def exec (i : Instr) (s : State) : Host.Outcome State Fault Refusal :=
  match i with
  | .readAdc dev len _ => Sys2Proof.Machine.execReadAdc dev len s
  | .writeLed len _ => Sys2Proof.Machine.execWriteLed len s
  | .writeLcd1 len _ => Sys2Proof.Machine.execWriteLcd1 len s
  | .writeLcd2 len _ => Sys2Proof.Machine.execWriteLcd2 len s
  | .writeLcd3 len _ => Sys2Proof.Machine.execWriteLcd3 len s
  | .hdrBadMode dev len mode _ => Sys2Proof.Machine.execHdrBadMode dev len mode s
  | .hdrBadBoard id len mode _ => Sys2Proof.Machine.execHdrBadBoard id len mode s
  | .start => Sys2Proof.Machine.execStart s
  | .discard b => Sys2Proof.Machine.execDiscard b s
  | .stop => Sys2Proof.Machine.execStop s
  | .stopBad b => Sys2Proof.Machine.execStopBad b s
  | .ack => Sys2Proof.Machine.execAck s
  | .nack => Sys2Proof.Machine.execNack s
  | .nackOther b => Sys2Proof.Machine.execNackOther b s
  | .hostRead _ _ len _ => Sys2Proof.Machine.execHostRead len s
  | .hostWrite _ _ len _ _ => Sys2Proof.Machine.execHostWrite len s

end Sys2Proof.Machine
end

