-- ==== Sys2Proof/Machine/Env.lean ====
section
/-! DEFINITION. The environment's moves: reset (R280, R281), Transport failure (R248), the operator (R212), the store load (R34),
the answers of the allocator and the capabilities (R15), and the faults of a channel that admits them (R40, D3, U18). -/

namespace Sys2Proof.Machine

/-- Reset of the peripheral (R39, R280, R281): whatever state it was in, `WaitStart`; a held buffer is given back; the
channel is not touched. -/
def State.resetPe (s : State) : State :=
  (if s.pe.alloc then s.log .pe .release else s).setPe { Pe.reset with bufRelease := s.pe.alloc }

/-- Reset of the host (R39, R280, R281): `Idle`, no report; the frame store and the channel are not touched. A trigger
given and not yet taken is lost (log 10). -/
def State.resetHd (s : State) : State :=
  ((s.setHd (Hd.resetKeeping s.hd.hfs)).setOpStart false).setOpRetry false

/-- `xport_err` sampled 1 by the peripheral: row T17 in any state but `Halted` (R151, R248). -/
def State.xportErrPe (s : State) : State :=
  match s.pe.state with
  | .halted => s
  | _ => s.dropPePulses.peTransportError

/-- `xport_err` sampled 1 by the host: row H11 in any state but `Fatal` (R201, R248). -/
def State.xportErrHd (s : State) : State :=
  match s.hd.state with
  | .fatal => s
  | _ => s.dropHdPulses.hdTransportError

/-- The operator's trigger: honoured in its state, ignored in any other (R212). -/
def State.operator (k : OpKind) (s : State) : State :=
  match k, s.hd.state with
  | .start, .idle => s.setOpStart true
  | .retry, .retryPrompt => s.setOpRetry true
  | _, _ => s

/-- Whether bytes are a whole frame definition: eight header bytes, `bytes[2]` payload bytes, a stop byte, and no more than
the store holds (R34; log 5). -/
def isFrameDefinition (bytes : List Byte) : Bool :=
  match bytes[2]? with
  | some len => 9 + len.toNat ≤ bytes.length && bytes.length ≤ Config.hfsCap
  | none => false

/-- A queue of the channel replaced. -/
def State.setQueue (d : Dir) (q : List Byte) (s : State) : State :=
  match d with
  | .h2p => s.setH2p q
  | .p2h => s.setP2h q

/-- Whether the environment may alter or insert bytes (R40, D3). -/
def State.lossy (s : State) : Bool := s.params.channelModel == .lossy

/-- The depth of receive FIFO the guarantees need in a direction (R293). -/
def rxNeeded : Dir → Nat
  | .h2p => Config.rxNeededPe
  | .p2h => Config.rxNeededHd

/-- Whether the environment may delete bytes of a queue (log 11): on a lossy channel always; else, without back-pressure, when
more bytes wait than the receive FIFO holds and either the depth is below what the guarantees need (U18, "as `lossy`") or the
engine is not receiving (R293). -/
def State.mayLose (d : Dir) (s : State) : Bool :=
  s.lossy || (!s.params.backPressure &&
    (s.rxDepth d).any fun n => n < (s.queue d).length && (n < rxNeeded d || !s.receives d))

/-- One move of the environment. -/
def envStep (e : EnvMove) (s : State) : Out :=
  match e with
  | .reset .pe => .next s.resetPe
  | .reset .hd => .next s.resetHd
  | .xportErr .pe => .next s.xportErrPe
  | .xportErr .hd => .next s.xportErrHd
  | .op k => .next (s.operator k)
  | .loadStore bytes =>
    if s.hd.state = .idle then
      if isFrameDefinition bytes then .next (s.setHd (s.hd.setHfs (Memory.ofBytes bytes)))
      else .refused .storeLoadNotAFrame
    else .refused .storeLoadOutsideIdle
  | .allocAnswer ok => .next (s.setAllocQ (s.allocQ ++ [ok]))
  | .adcSample b => .next (s.setAdcQ (s.adcQ ++ [b]))
  | .devwReturn => .next (s.setDevwQ (s.devwQ + 1))
  | .chDelete d i =>
    if s.mayLose d then .next (s.setQueue d ((s.queue d).eraseIdx i)) else .refused .channelFaultNotAdmitted
  | .chAlter d i b =>
    if s.lossy then .next (s.setQueue d ((s.queue d).set i b)) else .refused .channelFaultNotAdmitted
  | .chInsert d i b =>
    if s.lossy then .next (s.setQueue d ((s.queue d).insertIdx i b)) else .refused .channelFaultNotAdmitted

end Sys2Proof.Machine
end

