-- ==== Sys2Proof/WellFormed.lean ====
section
/-! DEFINITION. When an instruction's operands are ones its row of the table admits. -/

namespace Sys2Proof

/-- A catch-all row admits only what the rows before it in its context leave (R91, R92, R93, R99). -/
def WellFormed : Instr → Bool
  | .readAdc _ _ _ => true
  | .writeLed _ _ => true
  | .writeLcd1 _ _ => true
  | .writeLcd2 _ _ => true
  | .writeLcd3 _ _ => true
  | .hdrBadMode _ _ mode _ => mode != 0x01 && mode != 0x02
  | .hdrBadBoard id _ _ _ => id &&& 0xFC != 0x00
  | .start => true
  | .discard b => b != 0xFE
  | .stop => true
  | .stopBad b => b != 0x01
  | .ack => true
  | .nack => true
  | .nackOther b => b != 0x0F && b != 0xF0
  | .hostRead _ _ _ _ => true
  | .hostWrite _ _ _ mode _ => mode != 0x01

end Sys2Proof
end

