-- ==== Sys2Proof/Decode.lean ====
section
/-! DEFINITION. Decoding (total, rejecting by name) and encoding, from R81, R91, R92, R93, R99; the opcode table as data. -/

namespace Sys2Proof

/-- Why bytes are not read as an instruction. -/
inductive DecodeError where
  /-- Fewer bytes than the format has (R80). -/
  | truncated
  /-- `pe.header` bytes whose offset 0 is not 0xFE: such a byte never begins a header (R53, R122). -/
  | noStartMarker
deriving DecidableEq, Repr

/-- The decoder's answer: the instruction and the bytes after it, or a named rejection. -/
inductive Decoded where
  | ok (i : Instr) (rest : List Byte)
  | reject (e : DecodeError)
deriving DecidableEq, Repr

/-- The class of a header that begins with 0xFE, in the order of R91: board, then mode, then device. -/
def decodeHeader (id len mode : Byte) (rsv : Rsv) : Instr :=
  if id &&& 0xFC ≠ 0x00 then .hdrBadBoard id len mode rsv
  else if mode = 0x01 then .readAdc (id.setWidth 2) len rsv
  else if mode = 0x02 then
    if id = 0x00 then .writeLed len rsv
    else if id = 0x01 then .writeLcd1 len rsv
    else if id = 0x02 then .writeLcd2 len rsv
    else .writeLcd3 len rsv
  else .hdrBadMode (id.setWidth 2) len mode rsv

/-- A byte received in `WaitStart` (R92). -/
def decodeWaitStart (b : Byte) : Instr :=
  if b = 0xFE then .start else .discard b

/-- A byte received at the stop position (R92). -/
def decodeStop (b : Byte) : Instr :=
  if b = 0x01 then .stop else .stopBad b

/-- A byte received at an acknowledgment position (R92). -/
def decodeAck (b : Byte) : Instr :=
  if b = 0x0F then .ack else if b = 0xF0 then .nack else .nackOther b

/-- The driver the stored header selects: the stored mode alone decides (R93). -/
def decodeStore (start id len mode : Byte) (rsv : Rsv) : Instr :=
  if mode = 0x01 then .hostRead start id len rsv else .hostWrite start id len mode rsv

/-- The decoder: a position and the bytes from it on. -/
def decode (c : Context) (bs : List Byte) : Decoded :=
  match c with
  | .peHeader =>
    match bs with
    | s :: id :: len :: mode :: r0 :: r1 :: r2 :: r3 :: rest =>
      if s = 0xFE then .ok (decodeHeader id len mode ⟨r0, r1, r2, r3⟩) rest
      else .reject .noStartMarker
    | _ => .reject .truncated
  | .hdFrameStore =>
    match bs with
    | s :: id :: len :: mode :: r0 :: r1 :: r2 :: r3 :: rest =>
      .ok (decodeStore s id len mode ⟨r0, r1, r2, r3⟩) rest
    | _ => .reject .truncated
  | .peWaitStart =>
    match bs with
    | b :: rest => .ok (decodeWaitStart b) rest
    | [] => .reject .truncated
  | .peStop =>
    match bs with
    | b :: rest => .ok (decodeStop b) rest
    | [] => .reject .truncated
  | .hdAck =>
    match bs with
    | b :: rest => .ok (decodeAck b) rest
    | [] => .reject .truncated

/-- Eight header bytes in offset order (R50, R81). -/
def headerBytes (start id len mode : Byte) (rsv : Rsv) : List Byte :=
  [start, id, len, mode, rsv.r0, rsv.r1, rsv.r2, rsv.r3]

/-- The bytes of an instruction in wire order (R81, R91, R92). -/
def encode : Instr → List Byte
  | .readAdc dev len rsv => headerBytes 0xFE (dev.setWidth 8) len 0x01 rsv
  | .writeLed len rsv => headerBytes 0xFE 0x00 len 0x02 rsv
  | .writeLcd1 len rsv => headerBytes 0xFE 0x01 len 0x02 rsv
  | .writeLcd2 len rsv => headerBytes 0xFE 0x02 len 0x02 rsv
  | .writeLcd3 len rsv => headerBytes 0xFE 0x03 len 0x02 rsv
  | .hdrBadMode dev len mode rsv => headerBytes 0xFE (dev.setWidth 8) len mode rsv
  | .hdrBadBoard id len mode rsv => headerBytes 0xFE id len mode rsv
  | .start => [0xFE]
  | .discard b => [b]
  | .stop => [0x01]
  | .stopBad b => [b]
  | .ack => [0x0F]
  | .nack => [0xF0]
  | .nackOther b => [b]
  | .hostRead start id len rsv => headerBytes start id len 0x01 rsv
  | .hostWrite start id len mode rsv => headerBytes start id len mode rsv

/-! The opcode table as data (R99): a pattern selects a word `H` when `H &&& mask = pat`. -/

/-- One row of spec/opcode_table.json; a `BYTE` row's pattern stands in the low eight bits. -/
structure TableRow where
  context : Context
  pat : BitVec 64
  mask : BitVec 64
deriving DecidableEq, Repr

/-- The rows in the file's order, numbered 0 to 15. -/
def opcodeTable : List TableRow :=
  [⟨.peHeader, 0xFE00000100000000, 0xFFFC00FF00000000⟩,
   ⟨.peHeader, 0xFE00000200000000, 0xFFFF00FF00000000⟩,
   ⟨.peHeader, 0xFE01000200000000, 0xFFFF00FF00000000⟩,
   ⟨.peHeader, 0xFE02000200000000, 0xFFFF00FF00000000⟩,
   ⟨.peHeader, 0xFE03000200000000, 0xFFFF00FF00000000⟩,
   ⟨.peHeader, 0xFE00000000000000, 0xFFFC000000000000⟩,
   ⟨.peHeader, 0xFE00000000000000, 0xFF00000000000000⟩] ++
  [⟨.peWaitStart, 0xFE, 0xFF⟩, ⟨.peWaitStart, 0x00, 0x00⟩,
   ⟨.peStop, 0x01, 0xFF⟩, ⟨.peStop, 0x00, 0x00⟩,
   ⟨.hdAck, 0x0F, 0xFF⟩, ⟨.hdAck, 0xF0, 0xFF⟩, ⟨.hdAck, 0x00, 0x00⟩,
   ⟨.hdFrameStore, 0x0000000100000000, 0x000000FF00000000⟩,
   ⟨.hdFrameStore, 0x0000000000000000, 0x0000000000000000⟩]

/-- Whether a row applies at a position and its pattern matches the word (R99). -/
def TableRow.selects (r : TableRow) (c : Context) (h : BitVec 64) : Bool :=
  r.context == c && h &&& r.mask == r.pat

/-- The number of the first row that selects a word at a position: the table read alone (R99). -/
def firstRow (c : Context) (h : BitVec 64) : Option Nat :=
  opcodeTable.findIdx? (·.selects c h)

/-- The row of the table an instruction stands for. -/
def Instr.row : Instr → Nat
  | .readAdc _ _ _ => 0
  | .writeLed _ _ => 1
  | .writeLcd1 _ _ => 2
  | .writeLcd2 _ _ => 3
  | .writeLcd3 _ _ => 4
  | .hdrBadMode _ _ _ _ => 5
  | .hdrBadBoard _ _ _ _ => 6
  | .start => 7
  | .discard _ => 8
  | .stop => 9
  | .stopBad _ => 10
  | .ack => 11
  | .nack => 12
  | .nackOther _ => 13
  | .hostRead _ _ _ _ => 14
  | .hostWrite _ _ _ _ _ => 15

/-- The header word `H` of eight bytes: offset 0 is the most significant byte (R11). -/
def headerWord (start id len mode : Byte) (rsv : Rsv) : BitVec 64 :=
  start ++ id ++ len ++ mode ++ rsv.r0 ++ rsv.r1 ++ rsv.r2 ++ rsv.r3

/-! A word of the table without its position (log 13). -/

/-- Byte `k` of the header word `H`, in wire order: `H[63-8k : 56-8k]` (R11). -/
def tableByte (w k : Nat) : Byte := BitVec.ofNat 8 (w >>> (56 - 8 * k))

/-- The bytes a table word stands for: one token byte, or the eight bytes of `H` in wire order. -/
def tableBytes (nbits w : Nat) : List Byte :=
  if nbits ≤ 8 then [BitVec.ofNat 8 w]
  else [tableByte w 0, tableByte w 1, tableByte w 2, tableByte w 3,
        tableByte w 4, tableByte w 5, tableByte w 6, tableByte w 7]

/-- The position a bare table word is read at. The table's words carry no context, so a word that several
contexts match is read at the first of them that has a row of its own for it: DESIGN CHOICE, log 13. -/
def tableContext (nbits w : Nat) : Context :=
  if nbits ≤ 8 then
    if BitVec.ofNat 8 w = (0x01 : Byte) then .peStop
    else if BitVec.ofNat 8 w = (0x0F : Byte) then .hdAck
    else if BitVec.ofNat 8 w = (0xF0 : Byte) then .hdAck
    else .peWaitStart
  else if tableByte w 0 = (0xFE : Byte) then .peHeader
  else .hdFrameStore

/-- The instruction the decoder reads from a word of the opcode table (log 13). -/
def decodeTableWord (nbits w : Nat) : Option Instr :=
  match decode (tableContext nbits w) (tableBytes nbits w) with
  | .ok i _ => some i
  | .reject _ => none

end Sys2Proof
end

