-- ==== Sys2Proof/Machine/Fetch.lean ====
section
/-! DEFINITION. What an engine is to execute next: the token at its receive position, or the header it holds (R92, R93; log 14). -/

namespace Sys2Proof.Machine

/-- What an engine finds when it looks for its next row. -/
inductive Fetched where
  /-- A decoded instruction. -/
  | instr (i : Instr)
  /-- The peripheral is reading a header (rows T2a, T2b). -/
  | header
  /-- Nothing: the engine waits for a byte or the operator, or has stopped (R290, T18, H12). -/
  | wait
  /-- A register or byte the fetch reads holds no value (R13). -/
  | noValue (f : Fault)
deriving DecidableEq, Repr

/-- The instruction the peripheral's header registers hold. -/
def Pe.header (p : Pe) : Fetched :=
  match p.id, p.len, p.mode, p.rsv0, p.rsv1, p.rsv2, p.rsv3 with
  | some id, some len, some mode, some r0, some r1, some r2, some r3 =>
    .instr (decodeHeader id len mode ⟨r0, r1, r2, r3⟩)
  | _, _, _, _, _, _, _ => .noValue .noValue

/-- The instruction the host's frame store holds: its first eight bytes (R31, R93). -/
def Hd.stored (h : Hd) : Fetched :=
  match h.hfs.readSeq 0 8 with
  | some [start, id, len, mode, r0, r1, r2, r3] =>
    .instr (decodeStore start id len mode ⟨r0, r1, r2, r3⟩)
  | _ => .noValue .storeNotLoaded

/-- The byte at the head of a queue read as a token; an empty queue makes the engine wait (R290). -/
def tokenAt (read : Byte → Instr) (q : List Byte) : Fetched :=
  match q with
  | [] => .wait
  | b :: _ => .instr (read b)

/-- What the peripheral is to execute. -/
def peFetch (s : State) : Fetched :=
  match s.pe.state with
  | .waitStart => tokenAt decodeWaitStart s.h2p
  | .readHeader => .header
  | .wStop => tokenAt decodeStop s.h2p
  | .rStop => tokenAt decodeStop s.h2p
  | .halted => .wait
  | .validateBoard => s.pe.header
  | .validateMode => s.pe.header
  | .allocateBuffer => s.pe.header
  | .sendNack => s.pe.header
  | .wHdrAck => s.pe.header
  | .wPayload => s.pe.header
  | .wFinalAck => s.pe.header
  | .wDispatch => s.pe.header
  | .rHdrAck => s.pe.header
  | .rFill => s.pe.header
  | .rStream => s.pe.header
  | .rFinalAck => s.pe.header

/-- What the host is to execute. -/
def hdFetch (s : State) : Fetched :=
  match s.hd.state with
  | .waitHdrAck => tokenAt decodeAck s.p2h
  | .wWaitFinal => tokenAt decodeAck s.p2h
  | .rWaitFinal => tokenAt decodeAck s.p2h
  | .fatal => .wait
  | .idle => if s.opStart then s.hd.stored else .wait
  | .retryPrompt => if s.opRetry then s.hd.stored else .wait
  | .sendHeader => s.hd.stored
  | .wSendPayload => s.hd.stored
  | .wSendStop => s.hd.stored
  | .rRecvPayload => s.hd.stored
  | .rSendStop => s.hd.stored

end Sys2Proof.Machine
end

