-- ==== Sys2Proof/Machine/Place.lean ====
section
/-! DEFINITION. Placing one instruction of the opcode table where the next step fetches it (log 13). -/

namespace Sys2Proof.Machine

/-- The bytes of a store load that makes a header the stored one: payload bytes and stop byte zero. -/
def storedFrame (hdr : List Byte) : List Byte :=
  hdr ++ List.replicate ((hdr.getD 2 0).toNat + 1) 0

/-- The token `b` is at the head of `h2p` and the peripheral is about to receive it in a state. -/
def State.placePeByte (st : PeState) (b : Byte) (s : State) : State :=
  ((s.setH2p (b :: s.h2p)).peGoto st).setScript (.run .pe :: s.script)

/-- The peripheral stands at the stop position of an accepted Write frame of no payload. -/
def State.atStop (s : State) : State :=
  s.setPe { s.pe with
    id := some 0, len := some 0, mode := some Config.modeWrite,
    rsv0 := some 0, rsv1 := some 0, rsv2 := some 0, rsv3 := some 0, alloc := true, buf := [] }

/-- The acknowledgment byte `b` is at the head of `p2h` and the host waits for a header acknowledgment; a Write frame
of no payload is stored if no frame is. -/
def State.placeAck (b : Byte) (s : State) : State :=
  let hfs := if s.hd.hfs.frameLoaded then s.hd.hfs
    else Memory.ofBytes [Config.start, 0, 0, Config.modeWrite, 0, 0, 0, 0, Config.stop]
  (((s.setP2h (b :: s.p2h)).setHd (s.hd.setHfs hfs)).hdGoto .waitHdrAck).setScript (.run .hd :: s.script)

/-- The peripheral has received these eight header bytes. -/
def State.placeHeader (bs : List Byte) (s : State) : State :=
  ((s.setPe { s.pe with
      id := bs[1]?, len := bs[2]?, mode := bs[3]?,
      rsv0 := bs[4]?, rsv1 := bs[5]?, rsv2 := bs[6]?, rsv3 := bs[7]?,
      alloc := false, buf := [] }).peGoto .validateBoard).setScript (.run .pe :: s.script)

/-- The frame store holds a frame with this header and the operator has given `start`. -/
def State.placeStore (bs : List Byte) (s : State) : State :=
  (((s.setHd (s.hd.setHfs (Memory.ofBytes (storedFrame bs)))).hdGoto .idle).setOpStart true).setScript
    (.run .hd :: s.script)

/-- A word of the opcode table placed at its position. -/
def State.placeWord (nbits w : Nat) (s : State) : State :=
  let bs := tableBytes nbits w
  match tableContext nbits w with
  | .peWaitStart => s.placePeByte .waitStart (bs.headD 0)
  | .peStop => (s.atStop).placePeByte .wStop (bs.headD 0)
  | .hdAck => s.placeAck (bs.headD 0)
  | .peHeader => s.placeHeader bs
  | .hdFrameStore => s.placeStore bs

end Sys2Proof.Machine
end

