-- ==== Sys2Proof/Machine/Step.lean ====
section
/-! DEFINITION. One step of the whole system: the next move of the script, or of the engine whose turn it is (log 1). -/

namespace Sys2Proof.Machine

/-- What an engine does with what it fetched: a waiting engine changes nothing (R290; log 8). -/
def runFetched (f : Fetched) (s : State) : Host.Outcome State Fault Refusal :=
  match f with
  | .instr i => exec i s
  | .header => rowReadHeader s
  | .wait => .next s
  | .noValue r => .fault r

/-- One engine takes its next row; its one-cycle pulses drop first (log 9). -/
def agentStep (a : Agent) (s : State) : Host.Outcome State Fault Refusal :=
  match a with
  | .pe => runFetched (peFetch s) s.dropPePulses
  | .hd => runFetched (hdFetch s) s.dropHdPulses

/-- One move of the system. -/
def moveStep (m : Move) (s : State) : Host.Outcome State Fault Refusal :=
  match m with
  | .run a => agentStep a s
  | .env e => envStep e s

/-- One step: the head of `script`, or, when it is empty, the engine whose turn it is. -/
def step (s : State) : Host.Outcome State Fault Refusal :=
  match s.script with
  | m :: ms => moveStep m (s.setScript ms)
  | [] => agentStep s.turn (s.setTurn s.turn.other)

/-- `s` with a word of the opcode table placed where the next step fetches it (log 13). -/
def State.withFetchWord (s : State) (nbits w : Nat) : State := s.placeWord nbits w

end Sys2Proof.Machine
end

