-- ==== Sys2Proof/Machine/Codec.lean ====
section
/-! DEFINITION. The FrameCodec as pure operations (R110 to R112, R116, R117, R122). -/

namespace Sys2Proof.Machine

/-- The `Header` value (R111). -/
structure Header where
  start : Byte
  id : Byte
  len : Byte
  mode : Byte
  rsv : Rsv
deriving DecidableEq, Repr

/-- What `decode_header` answers (R112): the header and the rest of the source, or `FramingError`. -/
inductive HeaderResult where
  | header (h : Header) (rest : List Byte)
  | framingError
deriving DecidableEq, Repr

/-- `decode_header` (R112): exactly seven bytes after a start marker already consumed. The source is the
bytes the Transport delivers before it fails, so a shorter one is a `FramingError` (R122). -/
def codecDecode : List Byte → HeaderResult
  | id :: len :: mode :: r0 :: r1 :: r2 :: r3 :: rest =>
    .header ⟨Config.start, id, len, mode, ⟨r0, r1, r2, r3⟩⟩ rest
  | _ => .framingError

/-- `encode_header` (R116): the eight bytes as they stand, nothing validated. -/
def codecEncode (h : Header) : List Byte :=
  [h.start, h.id, h.len, h.mode, h.rsv.r0, h.rsv.r1, h.rsv.r2, h.rsv.r3]

/-- `make_header` (R116). -/
def makeHeader (board dev len mode : Byte) (rsv : Rsv) : Header :=
  ⟨Config.start, (board &&& Config.boardMask) ||| (dev &&& Config.devMask), len, mode, rsv⟩

end Sys2Proof.Machine
end

