-- ==== Sys2Proof/Machine/Ports.lean ====
section
/-! DEFINITION. The ports of both engines as functions of the state (`rx_ready` is in Ops), at the transaction level (R28, R29, R38; log 20). -/

namespace Sys2Proof.Machine

/-- `tx_valid` and `tx_data` of the peripheral (R28). -/
def State.peTx (s : State) : Option Byte :=
  match s.pe.state with
  | .sendNack => some Config.nack
  | .wHdrAck | .wFinalAck | .rHdrAck | .rFinalAck => some Config.ack
  | .rStream =>
    match s.pe.cnt, s.pe.len with
    | some c, some len => if c < Cnt.ofByte len then s.pe.buf.read c.toNat else none
    | _, _ => none
  | _ => none

/-- `alloc_req` and `alloc_len` (R28). -/
def State.allocReq (s : State) : Option Byte :=
  match s.pe.state with
  | .allocateBuffer => s.pe.len
  | _ => none

/-- The capability a call is made to: the Write flow asks `select_write`, the Read flow `select_read` (R130). -/
def State.capCalled (s : State) : Option Capability :=
  match s.pe.state, s.pe.id with
  | .wDispatch, some id => some (selectWrite (deviceOf id))
  | .rFill, some id => some (selectRead (deviceOf id))
  | _, _ => none

/-- `devw_start`, `devw_id` and `devw_len` (R28). -/
def State.devwReq (s : State) : Option (DevId × Byte) :=
  match s.pe.state, s.pe.id, s.pe.len with
  | .wDispatch, some id, some len => some (deviceOf id, len)
  | _, _, _ => none

/-- The bytes on `devw_data`, in order (R28). -/
def State.devwBytes (s : State) : Option (List Byte) :=
  match s.devwReq with
  | some (_, len) => s.pe.buf.readSeq 0 len.toNat
  | none => none

/-- `devr_start`, `devr_id` and `devr_len` (R28). -/
def State.devrReq (s : State) : Option (DevId × Byte) :=
  match s.pe.state, s.pe.id, s.pe.len with
  | .rFill, some id, some len => some (deviceOf id, len)
  | _, _, _ => none

/-- `evt_valid` with `evt_code` (R29). -/
def State.evtPort (s : State) : Option (BitVec 4) := s.pe.evt.map Status.code

/-- `hfs_addr` (R38): the frame store address the driver reads for the byte it is sending. -/
def State.hfsAddr (s : State) : Option Nat :=
  match s.hd.state, s.hd.cnt, s.hd.hfs.read 2 with
  | .sendHeader, some c, _ => some (hfsHeaderAddr c)
  | .wSendPayload, some c, some len => if c < Cnt.ofByte len then some (hfsPayloadAddr c) else none
  | .wSendStop, _, some len => some (hfsStopAddr len)
  | .rSendStop, _, some len => some (hfsStopAddr len)
  | _, _, _ => none

/-- `tx_valid` and `tx_data` of the host (R38): the stored byte at `hfs_addr`. -/
def State.hdTx (s : State) : Option Byte :=
  match s.hfsAddr with
  | some a => s.hd.hfs.read a
  | none => none

/-- `hrx_addr` (R38): the receive store address the driver writes the next byte to. -/
def State.hrxAddr (s : State) : Option Nat :=
  match s.hd.state, s.hd.cnt, s.hd.hfs.read 2 with
  | .rRecvPayload, some c, some len => if c < Cnt.ofByte len then some c.toNat else none
  | _, _, _ => none

/-- `rpt_valid` with `rpt_code` (R38, R213). -/
def State.rptPort (s : State) : Option (BitVec 2) := s.hd.rpt.map Report.code

/-- The `last_ack` debug view (R38). -/
def State.lastAckPort (s : State) : Option Byte := s.hd.lastAck

/-- What the environment reads of the receive store after a Read (R35). -/
def State.readHrx (s : State) (n : Nat) : Option (List Byte) := s.hd.hrx.readSeq 0 n

end Sys2Proof.Machine
end

