-- ==== Sys2Proof/Safety.lean ====
section
/-! DEFINITION. What a good state is (live ranges R27, buffer R24, stores R34, R35), what two conforming engines in step are
(R62 to R64), and the views of the trace the claims use (R17). -/

namespace Sys2Proof.Machine

/-! The frames an instruction stands for. -/

/-- Device-id and length of a Write frame (R172, R173). -/
def writeFrame : Instr → Option (DevId × Byte)
  | .writeLed len _ => some (0, len)
  | .writeLcd1 len _ => some (1, len)
  | .writeLcd2 len _ => some (2, len)
  | .writeLcd3 len _ => some (3, len)
  | _ => none

/-- Device-id and length of a Read frame (R171). -/
def readFrame : Instr → Option (DevId × Byte)
  | .readAdc dev len _ => some (dev, len)
  | _ => none

/-- The length operand of a header instruction (R83, R89). -/
def headerLen : Instr → Option Byte
  | .readAdc _ len _ => some len
  | .writeLed len _ => some len
  | .writeLcd1 len _ => some len
  | .writeLcd2 len _ => some len
  | .writeLcd3 len _ => some len
  | .hdrBadMode _ len _ _ => some len
  | .hdrBadBoard _ len _ _ => some len
  | _ => none

/-- Payload length of a stored frame (R214, R215). -/
def hostFrame : Instr → Option Byte
  | .hostRead _ _ len _ => some len
  | .hostWrite _ _ len _ _ => some len
  | _ => none

/-- The byte of an acknowledgment token (R92). -/
def ackByte : Instr → Option Byte
  | .ack => some 0x0F
  | .nack => some 0xF0
  | .nackOther b => some b
  | _ => none

/-! Views of the trace (R17). -/

/-- The bytes an agent has sent, in order. -/
def sentBy (a : Agent) (tr : List (Agent × Event)) : List Byte :=
  tr.filterMap fun
    | (a', .tx b) => if a' = a then some b else none
    | _ => none

/-- The bytes an agent has received, in order. -/
def receivedBy (a : Agent) (tr : List (Agent × Event)) : List Byte :=
  tr.filterMap fun
    | (a', .rx b) => if a' = a then some b else none
    | _ => none

/-- How many allocations were answered true. -/
def allocated (tr : List (Agent × Event)) : Nat :=
  tr.countP fun
    | (_, .alloc _ true) => true
    | _ => false

/-- How many times the buffer was released. -/
def released (tr : List (Agent × Event)) : Nat :=
  tr.countP fun
    | (_, .release) => true
    | _ => false

/-- Each direction's bytes are received in the order they were sent, each once, and what is not yet received is in flight
(R17, R60). -/
def State.ChannelInOrder (s : State) : Prop :=
  sentBy .hd s.trace = receivedBy .pe s.trace ++ s.h2p ∧
  sentBy .pe s.trace = receivedBy .hd s.trace ++ s.p2h

/-- Every buffer acquired has been released, but the one held (R24, R177). -/
def State.BufferAccounted (s : State) : Prop :=
  allocated s.trace = released s.trace + (if s.pe.alloc then 1 else 0)

/-- The bytes the ADC returned in the last call of the read capability (R135). -/
def lastSample (tr : List (Agent × Event)) : List Byte :=
  tr.foldl (fun last e =>
    match e with
    | (_, .devr _ _ _ bs) => bs
    | _ => last) []

/-- Events of one agent, in order. -/
def eventsOf (a : Agent) (es : List Event) : List (Agent × Event) := es.map (fun e => (a, e))

/-! Live ranges (R27). -/

/-- A store that lists exactly the addresses below `n`. -/
def Memory.Filled (m : Memory) (n : Nat) : Prop := m.map Prod.fst = List.range n

/-- No header register holds a value. -/
def Pe.NoHeader (p : Pe) : Prop :=
  p.id = none ∧ p.len = none ∧ p.mode = none ∧
  p.rsv0 = none ∧ p.rsv1 = none ∧ p.rsv2 = none ∧ p.rsv3 = none

/-- Every header register holds a value. -/
def Pe.HeaderLive (p : Pe) : Prop :=
  p.id.isSome ∧ p.len.isSome ∧ p.mode.isSome ∧
  p.rsv0.isSome ∧ p.rsv1.isSome ∧ p.rsv2.isSome ∧ p.rsv3.isSome

/-- While the header arrives, the registers at offsets below `pe.cnt` hold values and the others none (R154). -/
def Pe.HeaderArriving (p : Pe) : Prop :=
  ∃ c, p.cnt = some c ∧ 1 ≤ c.toNat ∧ c.toNat ≤ 7 ∧
    (p.id.isSome ↔ 1 < c.toNat) ∧ (p.len.isSome ↔ 2 < c.toNat) ∧ (p.mode.isSome ↔ 3 < c.toNat) ∧
    (p.rsv0.isSome ↔ 4 < c.toNat) ∧ (p.rsv1.isSome ↔ 5 < c.toNat) ∧ (p.rsv2.isSome ↔ 6 < c.toNat) ∧
    p.rsv3 = none

/-- No buffer is held and `BUF` holds no value. -/
def Pe.NoBuffer (p : Pe) : Prop := p.alloc = false ∧ p.buf = []

/-- The header passed both checks and selects the Write flow. -/
def Pe.Writing (p : Pe) : Prop :=
  p.HeaderLive ∧ (∃ id, p.id = some id ∧ validateBoard id = true) ∧ p.mode = some Config.modeWrite

/-- The header passed both checks and selects the Read flow. -/
def Pe.Reading (p : Pe) : Prop :=
  p.HeaderLive ∧ (∃ id, p.id = some id ∧ validateBoard id = true) ∧ p.mode = some Config.modeRead

/-- The buffer is held and filled up to the payload length. -/
def Pe.Full (p : Pe) : Prop :=
  p.alloc = true ∧ ∃ len, p.len = some len ∧ p.buf.Filled len.toNat

/-- What each state of the peripheral says of its registers, counter and buffer (R22, R24, R27). -/
def Pe.Inv (p : Pe) : Prop :=
  match p.state with
  | .waitStart => p.NoHeader ∧ p.cnt = none ∧ p.NoBuffer
  | .readHeader => p.HeaderArriving ∧ p.NoBuffer
  | .validateBoard => p.HeaderLive ∧ p.cnt = none ∧ p.NoBuffer
  | .validateMode =>
    p.HeaderLive ∧ p.cnt = none ∧ p.NoBuffer ∧ ∃ id, p.id = some id ∧ validateBoard id = true
  | .allocateBuffer => (p.Writing ∨ p.Reading) ∧ p.cnt = none ∧ p.NoBuffer
  | .sendNack => p.HeaderLive ∧ p.cnt = none ∧ (p.NoBuffer ∨ p.Full)
  | .wHdrAck => p.Writing ∧ p.cnt = none ∧ p.alloc = true ∧ p.buf = []
  | .wPayload =>
    p.Writing ∧ p.alloc = true ∧
      ∃ c len, p.cnt = some c ∧ p.len = some len ∧ c.toNat ≤ len.toNat ∧ p.buf.Filled c.toNat
  | .wStop => p.Writing ∧ p.cnt = none ∧ p.Full
  | .wFinalAck => p.Writing ∧ p.cnt = none ∧ p.Full
  | .wDispatch => p.Writing ∧ p.cnt = none ∧ p.Full
  | .rHdrAck => p.Reading ∧ p.cnt = none ∧ p.alloc = true ∧ p.buf = []
  | .rFill => p.Reading ∧ p.cnt = none ∧ p.alloc = true ∧ p.buf = []
  | .rStream =>
    p.Reading ∧ p.Full ∧ ∃ c len, p.cnt = some c ∧ p.len = some len ∧ c.toNat ≤ len.toNat
  | .rStop => p.Reading ∧ p.cnt = none ∧ p.NoBuffer
  | .rFinalAck => p.Reading ∧ p.cnt = none ∧ p.NoBuffer
  | .halted => p.cnt = none ∧ p.NoBuffer

/-- The frame store and the receive store are canonical and inside their address spaces (R34, R35, R57); a frame store that
holds anything holds a whole frame definition. -/
def Hd.StoresOk (h : Hd) : Prop :=
  h.hfs.wf ∧ (∀ c ∈ h.hfs, c.1 < Config.hfsCap) ∧ (h.hfs = [] ∨ h.hfs.frameLoaded = true) ∧
  h.hrx.wf ∧ (∀ c ∈ h.hrx, c.1 < Config.hrxCap)

/-- The driver is in its Write branch: a frame is stored and its mode is not Read (R211). -/
def Hd.Writing (h : Hd) : Prop :=
  h.hfs.frameLoaded = true ∧ ∃ m, h.hfs.read 3 = some m ∧ m ≠ Config.modeRead

/-- The driver is in its Read branch (R211). -/
def Hd.Reading (h : Hd) : Prop :=
  h.hfs.frameLoaded = true ∧ h.hfs.read 3 = some Config.modeRead

/-- What each state of the driver says of its counter and stores (R32, R34, R35). -/
def Hd.Inv (h : Hd) : Prop :=
  h.StoresOk ∧
  match h.state with
  | .idle => h.cnt = none
  | .sendHeader => h.hfs.frameLoaded = true ∧ ∃ c, h.cnt = some c ∧ c.toNat ≤ 7
  | .waitHdrAck => h.hfs.frameLoaded = true ∧ h.cnt = none
  | .retryPrompt => h.hfs.frameLoaded = true ∧ h.cnt = none
  | .wSendPayload =>
    h.Writing ∧ ∃ c len, h.cnt = some c ∧ h.hfs.read 2 = some len ∧ c.toNat ≤ len.toNat
  | .wSendStop => h.Writing ∧ h.cnt = none
  | .wWaitFinal => h.Writing ∧ h.cnt = none
  | .rRecvPayload =>
    h.Reading ∧ ∃ c len, h.cnt = some c ∧ h.hfs.read 2 = some len ∧ c.toNat ≤ len.toNat ∧
      (h.hrx.readSeq 0 c.toNat).isSome
  | .rSendStop =>
    h.Reading ∧ h.cnt = none ∧ ∃ len, h.hfs.read 2 = some len ∧ h.hrx.Filled len.toNat
  | .rWaitFinal =>
    h.Reading ∧ h.cnt = none ∧ ∃ len, h.hfs.read 2 = some len ∧ h.hrx.Filled len.toNat
  | .fatal => h.cnt = none

/-- The invariant of the whole machine. -/
def State.Inv (s : State) : Prop :=
  s.pe.Inv ∧ s.hd.Inv ∧
  (s.opStart = true → s.hd.state = .idle) ∧ (s.opRetry = true → s.hd.state = .retryPrompt)

/-! Two conforming engines in step (R62 to R64, R217), over a channel the environment leaves alone. -/

/-- The moves under which the engines stay in step: the engines' own, the operator's, the answers of allocator and
capabilities, and the load of a frame that begins with a start marker (R283). No reset, no Transport failure, no channel fault. -/
def Move.Conforming : Move → Prop
  | .run _ => True
  | .env (.op _) => True
  | .env (.loadStore bytes) => bytes[0]? = some Config.start
  | .env (.allocAnswer _) => True
  | .env (.adcSample _) => True
  | .env .devwReturn => True
  | .env (.reset _) => False
  | .env (.xportErr _) => False
  | .env (.chDelete _ _) => False
  | .env (.chAlter _ _ _) => False
  | .env (.chInsert _ _ _) => False

/-- The peripheral has no frame in progress on the wire: it scans, or is still dispatching the last Write (R294). -/
def State.PeAtRest (s : State) : Prop := s.pe.state = .waitStart ∨ s.pe.state = .wDispatch

/-- The peripheral's header registers hold the stored header. -/
def State.HeaderMatches (s : State) : Prop :=
  s.pe.id = s.hd.hfs.read 1 ∧ s.pe.len = s.hd.hfs.read 2 ∧ s.pe.mode = s.hd.hfs.read 3

/-- Of the first `n` stored header bytes, the peripheral has taken `k < 8` and the rest are in flight. -/
def State.HeaderInFlight (s : State) (n : Nat) : Prop :=
  s.p2h = [] ∧ ∃ k, k ≤ n ∧ k < 8 ∧ s.hd.hfs.readSeq k (n - k) = some s.h2p ∧
    ((k = 0 ∧ s.PeAtRest) ∨
      (s.pe.state = .readHeader ∧ (∃ c, s.pe.cnt = some c ∧ c.toNat = k) ∧
        (1 < k → s.pe.id = s.hd.hfs.read 1) ∧ (2 < k → s.pe.len = s.hd.hfs.read 2) ∧
        (3 < k → s.pe.mode = s.hd.hfs.read 3)))

/-- The peripheral holds the whole header and has not yet answered it. -/
def State.HeaderUndecided (s : State) : Prop :=
  s.h2p = [] ∧ s.p2h = [] ∧ s.HeaderMatches ∧
    (s.pe.state = .validateBoard ∨ s.pe.state = .validateMode ∨ s.pe.state = .allocateBuffer ∨
      (s.pe.state = .sendNack ∧ s.pe.alloc = false) ∨ s.pe.state = .wHdrAck ∨ s.pe.state = .rHdrAck)

/-- Of the first `n` stored payload bytes of a Write, the peripheral has buffered `k`; the rest, then `tail`, are in flight. -/
def State.PayloadInFlight (s : State) (n : Nat) (tail : List Byte) : Prop :=
  s.p2h = [] ∧ s.HeaderMatches ∧ ∃ k q, k ≤ n ∧ s.hd.hfs.readSeq (8 + k) (n - k) = some q ∧ s.h2p = q ++ tail ∧
    s.pe.buf.readSeq 0 k = s.hd.hfs.readSeq 8 k ∧
    ((s.pe.state = .wPayload ∧ ∃ c, s.pe.cnt = some c ∧ c.toNat = k) ∨
      (s.pe.state = .wStop ∧ ∃ len, s.pe.len = some len ∧ len.toNat = k))

/-- The peripheral, in its Read flow with nothing in flight toward it but `stop`, has sent just the bytes `sent`. -/
def State.ReadSent (s : State) (sent : List Byte) : Prop :=
  s.HeaderMatches ∧
    ((s.pe.state = .rFill ∧ sent = []) ∨
      (s.pe.state = .rStream ∧ ∃ c len, s.pe.cnt = some c ∧ s.pe.len = some len ∧
        s.pe.buf.readSeq 0 len.toNat = some (lastSample s.trace) ∧ sent = (lastSample s.trace).take c.toNat) ∨
      (s.pe.state = .rStop ∧ sent = lastSample s.trace ∧
        ∃ len, s.pe.len = some len ∧ (lastSample s.trace).length = len.toNat))

/-- The stop byte the stored frame ends with (R34). -/
def Hd.stopByte (h : Hd) : Option Byte :=
  match h.hfs.read 2 with
  | some len => h.hfs.read (8 + len.toNat)
  | none => none

/-- The host has received all the payload bytes the peripheral sampled. -/
def State.ReadDelivered (s : State) : Prop :=
  ∃ len, s.hd.hfs.read 2 = some len ∧ s.hd.hrx.readSeq 0 len.toNat = some (lastSample s.trace)

/-- The two engines and the channel in step, by what the host is doing (R62, R63). -/
def State.InStep (s : State) : Prop :=
  (s.hd.hfs = [] ∨ s.hd.hfs.read 0 = some Config.start) ∧
  match s.hd.state with
  | .idle => s.h2p = [] ∧ s.p2h = [] ∧ s.PeAtRest
  | .retryPrompt => s.h2p = [] ∧ s.p2h = [] ∧ s.pe.state = .waitStart
  | .sendHeader => ∃ c, s.hd.cnt = some c ∧ s.HeaderInFlight c.toNat
  | .waitHdrAck =>
    s.HeaderInFlight 8 ∨ s.HeaderUndecided ∨
    (s.h2p = [] ∧ s.p2h = [Config.nack] ∧ s.pe.state = .waitStart) ∨
    (s.h2p = [] ∧ s.p2h = [Config.ack] ∧ s.HeaderMatches ∧
      ((s.pe.state = .wPayload ∧ s.pe.cnt = some 0) ∨ (s.pe.state = .wStop ∧ s.pe.len = some 0))) ∨
    (s.h2p = [] ∧ ∃ sent, s.p2h = Config.ack :: sent ∧ s.ReadSent sent)
  | .wSendPayload => ∃ c, s.hd.cnt = some c ∧ s.PayloadInFlight c.toNat []
  | .wSendStop => ∃ len, s.hd.hfs.read 2 = some len ∧ s.PayloadInFlight len.toNat []
  | .wWaitFinal =>
    (∃ len b, s.hd.hfs.read 2 = some len ∧ s.hd.stopByte = some b ∧ s.PayloadInFlight len.toNat [b]) ∨
    (s.h2p = [] ∧ s.p2h = [] ∧ s.pe.state = .wFinalAck ∧ s.hd.stopByte = some Config.stop) ∨
    (s.h2p = [] ∧ s.p2h = [] ∧ s.pe.state = .sendNack ∧ s.hd.stopByte ≠ some Config.stop) ∨
    (s.h2p = [] ∧ s.p2h = [Config.ack] ∧ s.PeAtRest ∧ s.hd.stopByte = some Config.stop) ∨
    (s.h2p = [] ∧ s.p2h = [Config.nack] ∧ s.pe.state = .waitStart ∧ s.hd.stopByte ≠ some Config.stop)
  | .rRecvPayload =>
    s.h2p = [] ∧ ∃ c got, s.hd.cnt = some c ∧ s.hd.hrx.readSeq 0 c.toNat = some got ∧ s.ReadSent (got ++ s.p2h)
  | .rSendStop =>
    s.h2p = [] ∧ s.p2h = [] ∧ ∃ len got, s.hd.hfs.read 2 = some len ∧
      s.hd.hrx.readSeq 0 len.toNat = some got ∧ s.ReadSent got
  | .rWaitFinal =>
    (s.p2h = [] ∧ ∃ len got b, s.hd.hfs.read 2 = some len ∧ s.hd.hrx.readSeq 0 len.toNat = some got ∧
      s.hd.stopByte = some b ∧ s.h2p = [b] ∧ s.ReadSent got) ∨
    (s.h2p = [] ∧ s.p2h = [] ∧ s.pe.state = .rFinalAck ∧ s.hd.stopByte = some Config.stop ∧ s.ReadDelivered) ∨
    (s.h2p = [] ∧ s.p2h = [] ∧ s.pe.state = .sendNack ∧ s.hd.stopByte ≠ some Config.stop ∧ s.ReadDelivered) ∨
    (s.h2p = [] ∧ s.p2h = [Config.ack] ∧ s.pe.state = .waitStart ∧ s.hd.stopByte = some Config.stop ∧
      s.ReadDelivered) ∨
    (s.h2p = [] ∧ s.p2h = [Config.nack] ∧ s.pe.state = .waitStart ∧ s.hd.stopByte ≠ some Config.stop ∧
      s.ReadDelivered)
  | .fatal => False

/-- The peripheral offers a byte to the Transport: `tx_valid` (R28). -/
def State.PeSending (s : State) : Prop :=
  match s.pe.state with
  | .sendNack => True
  | .wHdrAck => True
  | .wFinalAck => True
  | .rHdrAck => True
  | .rFinalAck => True
  | .rStream => ∃ c len, s.pe.cnt = some c ∧ s.pe.len = some len ∧ c.toNat < len.toNat
  | _ => False

/-- The host offers a byte to the Transport: `tx_valid` (R38). -/
def State.HdSending (s : State) : Prop :=
  match s.hd.state with
  | .sendHeader => True
  | .wSendPayload => ∃ c len, s.hd.cnt = some c ∧ s.hd.hfs.read 2 = some len ∧ c.toNat < len.toNat
  | .wSendStop => True
  | .rSendStop => True
  | _ => False

end Sys2Proof.Machine
end

