-- ==== Sys2Proof/Certificates/Slice0/Obligations.lean ====
section
/-! DEFINITION. The statements for the provers, in the order of the spec's files: encoding, the rows of both engines, frames of
the instructions, errors, reset and environment, invariants, whole frames, the two engines together. -/

open Sys2Proof Sys2Proof.Machine

/-! ## Encoding -/

/-- The header words and token bytes of 95_test_vectors.md section 2.1, written out from R81 and R92, decode to the
instructions they stand for. -/
def Obligations.OpcodeWordsDecode : Prop :=
  decodeTableWord 64 0xFE00080200000000 = some (.writeLed 0x08 ⟨0, 0, 0, 0⟩) ∧
  decodeTableWord 64 0xFE01100200000000 = some (.writeLcd1 0x10 ⟨0, 0, 0, 0⟩) ∧
  decodeTableWord 64 0xFE0200020000BEEF = some (.writeLcd2 0x00 ⟨0, 0, 0xBE, 0xEF⟩) ∧
  decodeTableWord 64 0xFE03FF0200000000 = some (.writeLcd3 0xFF ⟨0, 0, 0, 0⟩) ∧
  decodeTableWord 64 0xFE03FF01DEADBEEF = some (.readAdc 3 0xFF ⟨0xDE, 0xAD, 0xBE, 0xEF⟩) ∧
  decodeTableWord 64 0xFE02080300000000 = some (.hdrBadMode 2 0x08 0x03 ⟨0, 0, 0, 0⟩) ∧
  decodeTableWord 64 0xFE04080300000000 = some (.hdrBadBoard 0x04 0x08 0x03 ⟨0, 0, 0, 0⟩) ∧
  decode .peWaitStart [0xFE] = .ok .start [] ∧
  decode .peStop [0x01] = .ok .stop [] ∧
  decode .hdAck [0x0F] = .ok .ack [] ∧
  decode .hdAck [0xF0] = .ok .nack [] ∧
  decode .hdFrameStore [0x00, 0x01, 0x02, 0x01, 0, 0, 0, 0] = .ok (.hostRead 0x00 0x01 0x02 ⟨0, 0, 0, 0⟩) [] ∧
  decode .hdFrameStore [0x00, 0x01, 0x02, 0x03, 0, 0, 0, 0] = .ok (.hostWrite 0x00 0x01 0x02 0x03 ⟨0, 0, 0, 0⟩) []

/-- Decoding an encoded well-formed instruction at its position gives it back, with the bytes after it untouched. -/
def Obligations.DecodeOfEncode : Prop :=
  ∀ (i : Instr) (rest : List Byte), WellFormed i = true →
    decode i.context (encode i ++ rest) = .ok i rest

/-- Whatever the decoder reads is a well-formed instruction of that position, and encodes to the very bytes read. -/
def Obligations.EncodeOfDecode : Prop :=
  ∀ (c : Context) (bs rest : List Byte) (i : Instr), decode c bs = .ok i rest →
    WellFormed i = true ∧ i.context = c ∧ encode i ++ rest = bs

/-- A decoder built from the table alone (first matching row of a context) gives the decoder's instruction (R99). -/
def Obligations.TableAloneReproducesDecoder : Prop :=
  (∀ (id len mode : Byte) (rsv : Rsv),
    firstRow .peHeader (headerWord 0xFE id len mode rsv) = some (decodeHeader id len mode rsv).row) ∧
  (∀ (start id len mode : Byte) (rsv : Rsv),
    firstRow .hdFrameStore (headerWord start id len mode rsv) = some (decodeStore start id len mode rsv).row) ∧
  (∀ b : Byte, firstRow .peWaitStart (b.setWidth 64) = some (decodeWaitStart b).row) ∧
  (∀ b : Byte, firstRow .peStop (b.setWidth 64) = some (decodeStop b).row) ∧
  (∀ b : Byte, firstRow .hdAck (b.setWidth 64) = some (decodeAck b).row)

/-- The codec's round trip, both directions (R117). -/
def Obligations.CodecRoundTrip : Prop :=
  (∀ (h : Header) (rest : List Byte), h.start = 0xFE →
    (codecEncode h).head? = some 0xFE ∧ codecDecode ((codecEncode h).tail ++ rest) = .header h rest) ∧
  (∀ (bs : List Byte), bs.length = 8 → bs.head? = some 0xFE →
    ∃ h, codecDecode bs.tail = .header h [] ∧ codecEncode h = bs)

/-- Which bytes pass the three validation predicates (R113, R114, R115). -/
def Obligations.ValidationPredicates : Prop :=
  (∀ id : Byte, validateBoard id = true ↔ id = 0x00 ∨ id = 0x01 ∨ id = 0x02 ∨ id = 0x03) ∧
  (∀ m : Byte, validateMode m = true ↔ m = 0x01 ∨ m = 0x02) ∧
  (∀ b : Byte, validateStop b = true ↔ b = 0x01)

/-- The registry: device 0 writes to the LED, 1 to 3 to the LCD, every Read is the ADC (R130, R131, R132). -/
def Obligations.RegistryMap : Prop :=
  selectWrite 0 = .led ∧ selectWrite 1 = .lcd ∧ selectWrite 2 = .lcd ∧ selectWrite 3 = .lcd ∧
  (∀ d : DevId, selectRead d = .adc) ∧
  (∀ id : Byte, deviceOf id = (id &&& 0x03).setWidth 2)

/-! ## The step runs what is decoded -/

/-- In a state in which the peripheral reads an instruction, whatever the decoder reads from the bytes there (the byte at the
head of `h2p`, or the header registers behind a start marker) is what a step of the peripheral executes, after the script's
head is taken and the one-cycle pulses drop. -/
def Obligations.PeripheralStepRunsDecoded : Prop :=
  ∀ (s : State) (ms : List Move) (i : Instr) (rest : List Byte), s.script = .run .pe :: ms →
    (s.pe.state = .waitStart ∧ decode .peWaitStart s.h2p = .ok i rest ∨
     (s.pe.state = .wStop ∨ s.pe.state = .rStop) ∧ decode .peStop s.h2p = .ok i rest ∨
     s.pe.state ∉ [PeState.waitStart, .readHeader, .wStop, .rStop, .halted] ∧
       ∃ id len mode r0 r1 r2 r3, s.pe.id = some id ∧ s.pe.len = some len ∧ s.pe.mode = some mode ∧
         s.pe.rsv0 = some r0 ∧ s.pe.rsv1 = some r1 ∧ s.pe.rsv2 = some r2 ∧ s.pe.rsv3 = some r3 ∧
         decode .peHeader [0xFE, id, len, mode, r0, r1, r2, r3] = .ok i rest) →
    step s = exec i { s with script := ms, pe := { s.pe with evt := none, bufRelease := false } }

/-- The same for the host: the byte at the head of `p2h` at an acknowledgment position, or the stored header elsewhere (in
`Idle` and `RetryPrompt` once the operator's trigger is given). -/
def Obligations.HostStepRunsDecoded : Prop :=
  ∀ (s : State) (ms : List Move) (i : Instr) (rest : List Byte), s.script = .run .hd :: ms →
    ((s.hd.state = .waitHdrAck ∨ s.hd.state = .wWaitFinal ∨ s.hd.state = .rWaitFinal) ∧
       decode .hdAck s.p2h = .ok i rest ∨
     (s.hd.state = .idle ∧ s.opStart = true ∨ s.hd.state = .retryPrompt ∧ s.opRetry = true ∨
       s.hd.state ∈ [HdState.sendHeader, .wSendPayload, .wSendStop, .rRecvPayload, .rSendStop]) ∧
       ∃ bs, s.hd.hfs.readSeq 0 8 = some bs ∧ decode .hdFrameStore bs = .ok i rest) →
    step s = exec i { s with script := ms, hd := { s.hd with rpt := none } }

/-- When the script is empty the engine whose turn it is moves, and the turn passes (the model's scheduling, log 1). -/
def Obligations.EmptyScriptAlternates : Prop :=
  ∀ s : State, s.script = [] →
    step s = step { s with script := [.run s.turn], turn := s.turn.other }

/-! ## Rows of the peripheral -/

/-- `WaitStart` (R153): 0xFE begins a header with `pe.cnt` 1, any other byte is dropped, and an empty channel is waited on. (That a
wait is a next state is log 8; that the engine's one-cycle pulses drop at its move is the model's choice, log 9.) -/
def Obligations.WaitStartScans : Prop :=
  ∀ (s : State) (q : List Byte), s.pe.state = .waitStart →
    (s.h2p = 0xFE :: q →
      exec .start s = .next { s with
        h2p := q, trace := s.trace ++ [(.pe, .rx 0xFE)],
        pe := { s.pe with state := .readHeader, cnt := some 1 } }) ∧
    (∀ b : Byte, b ≠ 0xFE → s.h2p = b :: q →
      exec (.discard b) s = .next { s with h2p := q, trace := s.trace ++ [(.pe, .rx b)] }) ∧
    (s.h2p = [] → agentStep .pe s = .next { s with pe := { s.pe with evt := none, bufRelease := false } })

/-- `ReadHeader` (R154): the byte received when `pe.cnt` is `k` goes to the register of wire offset `k`, whatever its value;
nothing is sent; after the seventh the engine validates, and `pe.cnt` holds no value (R27, log 3). (That the engine's one-cycle
pulses drop at its move is the model's choice, log 9.) -/
def Obligations.ReadHeaderStores : Prop :=
  ∀ (s : State) (c : Cnt) (b : Byte) (q : List Byte), s.pe.state = .readHeader → s.pe.cnt = some c →
    1 ≤ c.toNat → c.toNat ≤ 7 → s.h2p = b :: q →
    agentStep .pe s = .next { s with
      h2p := q, trace := s.trace ++ [(.pe, .rx b)],
      pe := { s.pe with
        evt := none, bufRelease := false,
        state := if c.toNat = 7 then .validateBoard else .readHeader,
        cnt := if c.toNat = 7 then none else some (c + 1),
        id := if c.toNat = 1 then some b else s.pe.id,
        len := if c.toNat = 2 then some b else s.pe.len,
        mode := if c.toNat = 3 then some b else s.pe.mode,
        rsv0 := if c.toNat = 4 then some b else s.pe.rsv0,
        rsv1 := if c.toNat = 5 then some b else s.pe.rsv1,
        rsv2 := if c.toNat = 6 then some b else s.pe.rsv2,
        rsv3 := if c.toNat = 7 then some b else s.pe.rsv3 } }

/-- `HDR.BADBOARD` at `ValidateBoard` (row T3b): the cause is raised and the engine goes to send its `NACK`. -/
def Obligations.BadBoardRaises : Prop :=
  ∀ (s : State) (id len mode : Byte) (rsv : Rsv), WellFormed (.hdrBadBoard id len mode rsv) = true →
    s.pe.state = .validateBoard →
    exec (.hdrBadBoard id len mode rsv) s = .next { s with
      trace := s.trace ++ [(.pe, .err .badBoardId (some id))],
      pe := { s.pe with state := .sendNack, cnt := none, evt := some .badBoardId } }

/-- `HDR.BADMODE`: passes the board check (row T3a), then raises its cause at `ValidateMode` (row T4b); nothing is allocated. -/
def Obligations.BadModeRaises : Prop :=
  ∀ (s : State) (dev : DevId) (len mode : Byte) (rsv : Rsv), WellFormed (.hdrBadMode dev len mode rsv) = true →
    (s.pe.state = .validateBoard →
      exec (.hdrBadMode dev len mode rsv) s = .next { s with pe := { s.pe with state := .validateMode, cnt := none } }) ∧
    (s.pe.state = .validateMode →
      exec (.hdrBadMode dev len mode rsv) s = .next { s with
        trace := s.trace ++ [(.pe, .err .badMode (some mode))],
        pe := { s.pe with state := .sendNack, cnt := none, evt := some .badMode } })

/-- `SendNack` (R162, R246): for every header instruction, one 0xF0 goes out, then a held buffer is released, then the engine is
in `WaitStart` with no header register holding a value. -/
def Obligations.SendNackRestarts : Prop :=
  ∀ (s : State) (i : Instr), i.context = .peHeader → s.pe.state = .sendNack → s.hasRoom .p2h = true →
    exec i s = .next { s with
      p2h := s.p2h ++ [0xF0],
      trace := s.trace ++ [(.pe, .tx 0xF0)] ++ (if s.pe.alloc then [(.pe, .release)] else []),
      pe := { s.pe with
        state := .waitStart, cnt := none, id := none, len := none, mode := none,
        rsv0 := none, rsv1 := none, rsv2 := none, rsv3 := none,
        alloc := false, buf := if s.pe.alloc then [] else s.pe.buf,
        bufRelease := s.pe.alloc || s.pe.bufRelease } }

/-- A Write or Read header passes both checks (rows T3a, T4a). -/
def Obligations.GoodHeaderPassesChecks : Prop :=
  ∀ (s : State) (i : Instr) (d : DevId) (len : Byte), (writeFrame i = some (d, len) ∨ readFrame i = some (d, len)) →
    (s.pe.state = .validateBoard →
      exec i s = .next { s with pe := { s.pe with state := .validateMode, cnt := none } }) ∧
    (s.pe.state = .validateMode →
      exec i s = .next { s with pe := { s.pe with state := .allocateBuffer, cnt := none } })

/-- `AllocateBuffer` and the flow selection (R158, R159): the allocator's answer decides; under `never_fails` it is true; true
takes the buffer and selects the flow, false raises `AllocationFailure` with nothing to release; no answer is waited on. (The queue of
answers is log 7, the wait as a next state log 8; that `never_fails` answers at once is the model's choice, log 23.) -/
def Obligations.AllocateBufferAnswers : Prop :=
  ∀ (s : State) (i : Instr) (d : DevId) (len : Byte), s.pe.state = .allocateBuffer →
    (writeFrame i = some (d, len) ∨ readFrame i = some (d, len)) →
    (∀ q, s.params.allocModel = .oracle → s.allocQ = true :: q →
      exec i s = .next { s with
        allocQ := q, trace := s.trace ++ [(.pe, .alloc len true)],
        pe := { s.pe with
          alloc := true, cnt := none,
          state := if (readFrame i).isSome then .rHdrAck else .wHdrAck } }) ∧
    (s.params.allocModel = .neverFails →
      exec i s = .next { s with
        trace := s.trace ++ [(.pe, .alloc len true)],
        pe := { s.pe with
          alloc := true, cnt := none,
          state := if (readFrame i).isSome then .rHdrAck else .wHdrAck } }) ∧
    (∀ q, s.params.allocModel = .oracle → s.allocQ = false :: q →
      exec i s = .next { s with
        allocQ := q, trace := s.trace ++ [(.pe, .alloc len false), (.pe, .err .allocationFailure (some len))],
        pe := { s.pe with state := .sendNack, cnt := none, evt := some .allocationFailure } }) ∧
    (s.params.allocModel = .oracle → s.allocQ = [] → exec i s = .next s)

/-- The Write flow's own rows (R160, R161, R165, R166): header `ACK`; each payload byte into `BUF` in order; final `ACK`; one
call of the write capability the registry selects, LED for device 0 and LCD for the others (R130), with the whole payload, waited for
until it returns, after which the buffer is released and `FrameDoneWrite` raised (R29, row T11). (That returns wait in a queue is the
model's choice, log 7, and so is that the call is recorded when it returns, log 18; the wait as a next state is log 8.) -/
def Obligations.WriteFlowRows : Prop :=
  ∀ (s : State) (i : Instr) (d : DevId) (len : Byte), writeFrame i = some (d, len) →
    (s.pe.state = .wHdrAck → s.hasRoom .p2h = true →
      exec i s = .next { s with
        p2h := s.p2h ++ [0x0F], trace := s.trace ++ [(.pe, .tx 0x0F)],
        pe := { s.pe with state := .wPayload, cnt := some 0 } }) ∧
    (∀ c b q, s.pe.state = .wPayload → s.pe.cnt = some c → c.toNat < len.toNat → s.h2p = b :: q →
      exec i s = .next { s with
        h2p := q, trace := s.trace ++ [(.pe, .rx b)],
        pe := { s.pe with buf := s.pe.buf.write c.toNat b, cnt := some (c + 1) } }) ∧
    (∀ c, s.pe.state = .wPayload → s.pe.cnt = some c → c.toNat = len.toNat →
      exec i s = .next { s with pe := { s.pe with state := .wStop, cnt := none } }) ∧
    (s.pe.state = .wFinalAck → s.hasRoom .p2h = true →
      exec i s = .next { s with
        p2h := s.p2h ++ [0x0F], trace := s.trace ++ [(.pe, .tx 0x0F)],
        pe := { s.pe with state := .wDispatch, cnt := none } }) ∧
    (s.pe.state = .wDispatch → s.devwQ = 0 → exec i s = .next s) ∧
    (∀ n bytes, s.pe.state = .wDispatch → s.devwQ = n + 1 → s.pe.buf.readSeq 0 len.toNat = some bytes →
      exec i s = .next { s with
        devwQ := n, trace := s.trace ++ [(.pe, .devw (if d = 0 then .led else .lcd) d bytes), (.pe, .release)],
        pe := { s.pe with
          state := .waitStart, cnt := none, id := none, len := none, mode := none,
          rsv0 := none, rsv1 := none, rsv2 := none, rsv3 := none,
          alloc := false, buf := [], bufRelease := true, evt := some .frameDoneWrite } })

/-- The Read flow's own rows (R167, R168, R169, R174): header `ACK`; one call of the ADC (R130), waited for until it has every
byte, that fills the whole buffer; each byte sent in order; the release before the stop byte; final `ACK` with `FrameDoneRead` (R29, row
T16). (That samples wait in a queue is the model's choice, log 7; the wait as a next state is log 8.) -/
def Obligations.ReadFlowRows : Prop :=
  ∀ (s : State) (d : DevId) (len : Byte) (rsv : Rsv),
    (s.pe.state = .rHdrAck → s.hasRoom .p2h = true →
      exec (.readAdc d len rsv) s = .next { s with
        p2h := s.p2h ++ [0x0F], trace := s.trace ++ [(.pe, .tx 0x0F)],
        pe := { s.pe with state := .rFill, cnt := none } }) ∧
    (s.pe.state = .rFill → s.adcQ.length < len.toNat → exec (.readAdc d len rsv) s = .next s) ∧
    (∀ samples q, s.pe.state = .rFill → samples.length = len.toNat → s.adcQ = samples ++ q →
      exec (.readAdc d len rsv) s = .next { s with
        adcQ := q, trace := s.trace ++ [(.pe, .devr .adc d len samples)],
        pe := { s.pe with state := .rStream, cnt := some 0, buf := s.pe.buf.writeSeq 0 samples } }) ∧
    (∀ c b, s.pe.state = .rStream → s.pe.cnt = some c → c.toNat < len.toNat → s.pe.buf.read c.toNat = some b →
      s.hasRoom .p2h = true →
      exec (.readAdc d len rsv) s = .next { s with
        p2h := s.p2h ++ [b], trace := s.trace ++ [(.pe, .tx b)], pe := { s.pe with cnt := some (c + 1) } }) ∧
    (∀ c, s.pe.state = .rStream → s.pe.cnt = some c → c.toNat = len.toNat →
      exec (.readAdc d len rsv) s = .next { s with
        trace := s.trace ++ [(.pe, .release)],
        pe := { s.pe with state := .rStop, cnt := none, alloc := false, buf := [], bufRelease := true } }) ∧
    (s.pe.state = .rFinalAck → s.hasRoom .p2h = true →
      exec (.readAdc d len rsv) s = .next { s with
        p2h := s.p2h ++ [0x0F], trace := s.trace ++ [(.pe, .tx 0x0F)],
        pe := { s.pe with
          state := .waitStart, cnt := none, id := none, len := none, mode := none,
          rsv0 := none, rsv1 := none, rsv2 := none, rsv3 := none, evt := some .frameDoneRead } })

/-- The stop position (R163): 0x01 leads to the final `ACK` of its flow, any other byte raises `StopByteError` and leads to the `NACK`. -/
def Obligations.StopByteDecides : Prop :=
  ∀ (s : State) (q : List Byte),
    (s.pe.state = .wStop → s.h2p = 0x01 :: q →
      exec .stop s = .next { s with
        h2p := q, trace := s.trace ++ [(.pe, .rx 0x01)], pe := { s.pe with state := .wFinalAck, cnt := none } }) ∧
    (s.pe.state = .rStop → s.h2p = 0x01 :: q →
      exec .stop s = .next { s with
        h2p := q, trace := s.trace ++ [(.pe, .rx 0x01)], pe := { s.pe with state := .rFinalAck, cnt := none } }) ∧
    (∀ b : Byte, b ≠ 0x01 → (s.pe.state = .wStop ∨ s.pe.state = .rStop) → s.h2p = b :: q →
      exec (.stopBad b) s = .next { s with
        h2p := q, trace := s.trace ++ [(.pe, .rx b), (.pe, .err .stopByteError (some b))],
        pe := { s.pe with state := .sendNack, cnt := none, evt := some .stopByteError } })

/-! ## Rows of the host -/

/-- The header acknowledgment (R205, R211): kept in `hd.last_ack`; 0x0F takes the branch of the stored mode, anything else is
reported as a rejected header. -/
def Obligations.HeaderAcknowledgment : Prop :=
  ∀ (s : State) (i : Instr) (b : Byte) (q : List Byte), s.hd.state = .waitHdrAck → s.p2h = b :: q →
    ackByte i = some b → WellFormed i = true →
    (∀ m, b = 0x0F → s.hd.hfs.read 3 = some m →
      exec i s = .next { s with
        p2h := q, trace := s.trace ++ [(.hd, .rx b)],
        hd := { s.hd with
          lastAck := some b, cnt := some 0,
          state := if m = 0x01 then .rRecvPayload else .wSendPayload } }) ∧
    (b ≠ 0x0F →
      exec i s = .next { s with
        p2h := q, trace := s.trace ++ [(.hd, .rx b), (.hd, .report .headerNack)],
        hd := { s.hd with lastAck := some b, cnt := none, state := .retryPrompt, rpt := some .headerNack } })

/-- The final acknowledgment (R209): kept in `hd.last_ack`; 0x0F reports success, anything else a stop-bits error; either way `Idle`. -/
def Obligations.FinalAcknowledgment : Prop :=
  ∀ (s : State) (i : Instr) (b : Byte) (q : List Byte), (s.hd.state = .wWaitFinal ∨ s.hd.state = .rWaitFinal) →
    s.p2h = b :: q → ackByte i = some b → WellFormed i = true →
    exec i s = .next { s with
      p2h := q,
      trace := s.trace ++ [(.hd, .rx b), (.hd, .report (if b = 0x0F then .success else .stopBitsError))],
      hd := { s.hd with
        lastAck := some b, cnt := none, state := .idle,
        rpt := some (if b = 0x0F then .success else .stopBitsError) } }

/-- `start` and `retry` are taken, and the eight stored header bytes are sent as stored (R203, R206; rows H1, H2, H4). -/
def Obligations.HostSendsStoredHeader : Prop :=
  ∀ (s : State) (i : Instr) (len : Byte), hostFrame i = some len →
    (s.hd.state = .idle → s.opStart = true →
      exec i s = .next { s with
        opStart := false, trace := s.trace ++ [(.hd, .op .start)],
        hd := { s.hd with state := .sendHeader, cnt := some 0 } }) ∧
    (s.hd.state = .retryPrompt → s.opRetry = true →
      exec i s = .next { s with
        opRetry := false, trace := s.trace ++ [(.hd, .op .retry)],
        hd := { s.hd with state := .sendHeader, cnt := some 0 } }) ∧
    (∀ c b, s.hd.state = .sendHeader → s.hd.cnt = some c → c.toNat ≤ 7 → s.hd.hfs.read c.toNat = some b →
      s.hasRoom .h2p = true →
      exec i s = .next { s with
        h2p := s.h2p ++ [b], trace := s.trace ++ [(.hd, .tx b)],
        hd := { s.hd with
          state := if c.toNat = 7 then .waitHdrAck else .sendHeader,
          cnt := if c.toNat = 7 then none else some (c + 1) } })

/-- The Write driver (R207): the stored payload in order, then the stored stop byte, whatever its value. -/
def Obligations.HostWriteRows : Prop :=
  ∀ (s : State) (i : Instr) (len : Byte), hostFrame i = some len →
    (∀ c b, s.hd.state = .wSendPayload → s.hd.cnt = some c → c.toNat < len.toNat →
      s.hd.hfs.read (8 + c.toNat) = some b → s.hasRoom .h2p = true →
      exec i s = .next { s with
        h2p := s.h2p ++ [b], trace := s.trace ++ [(.hd, .tx b)], hd := { s.hd with cnt := some (c + 1) } }) ∧
    (∀ c, s.hd.state = .wSendPayload → s.hd.cnt = some c → c.toNat = len.toNat →
      exec i s = .next { s with hd := { s.hd with state := .wSendStop, cnt := none } }) ∧
    (∀ b, s.hd.state = .wSendStop → s.hd.hfs.read (8 + len.toNat) = some b → s.hasRoom .h2p = true →
      exec i s = .next { s with
        h2p := s.h2p ++ [b], trace := s.trace ++ [(.hd, .tx b)],
        hd := { s.hd with state := .wWaitFinal, cnt := none } })

/-- The Read driver (R208): each byte received goes to `HRX` unexamined, then the stored stop byte is sent. (That the bytes of
`HRX` at and above the length then hold no value is the model's reading of R35, log 6.) -/
def Obligations.HostReadRows : Prop :=
  ∀ (s : State) (i : Instr) (len : Byte), hostFrame i = some len →
    (∀ c b q, s.hd.state = .rRecvPayload → s.hd.cnt = some c → c.toNat < len.toNat → s.p2h = b :: q →
      exec i s = .next { s with
        p2h := q, trace := s.trace ++ [(.hd, .rx b)],
        hd := { s.hd with hrx := s.hd.hrx.write c.toNat b, cnt := some (c + 1) } }) ∧
    (∀ c, s.hd.state = .rRecvPayload → s.hd.cnt = some c → c.toNat = len.toNat →
      ∃ t, exec i s = .next t ∧ t = { s with hd := { s.hd with state := .rSendStop, cnt := none, hrx := t.hd.hrx } } ∧
        ∀ a, t.hd.hrx.read a = if a < len.toNat then s.hd.hrx.read a else none) ∧
    (∀ b, s.hd.state = .rSendStop → s.hd.hfs.read (8 + len.toNat) = some b → s.hasRoom .h2p = true →
      exec i s = .next { s with
        h2p := s.h2p ++ [b], trace := s.trace ++ [(.hd, .tx b)],
        hd := { s.hd with state := .rWaitFinal, cnt := none } })

/-! ## What an instruction leaves unchanged -/

/-- Frame of the header instructions (`READ.ADC`, `WRITE.LED`, `WRITE.LCD`, `HDR.BADMODE`, `HDR.BADBOARD`): the host, the
parameters, the schedule and the operator's inputs are untouched; the header registers change only on entering `WaitStart`;
`h2p` changes only by the byte `W_Payload` receives, and only the byte at index `pe.cnt` of `BUF` is stored then; `R_Fill` stores
only bytes below the instruction's own length operand; every other byte of `BUF` reads as before, unless the buffer is released; `pe.alloc` changes only by
an allocation or a release, and the status port only where R29 says. -/
def Obligations.HeaderInstructionFrame : Prop :=
  ∀ (i : Instr) (s t : State), i.context = .peHeader → exec i s = .next t →
    t.hd = s.hd ∧ t.params = s.params ∧ t.script = s.script ∧ t.turn = s.turn ∧
    t.opStart = s.opStart ∧ t.opRetry = s.opRetry ∧
    (t.h2p = s.h2p ∨ s.pe.state = .wPayload ∧ ∃ b, s.h2p = b :: t.h2p) ∧
    (t.p2h = s.p2h ∨ ∃ b, t.p2h = s.p2h ++ [b]) ∧
    (t.pe.alloc = s.pe.alloc ∨ s.pe.state = .allocateBuffer ∨ (.pe, .release) ∈ t.trace.drop s.trace.length) ∧
    (t.pe.evt = s.pe.evt ∨ s.pe.state ∈ [PeState.validateBoard, .validateMode, .allocateBuffer, .wDispatch, .rFinalAck]) ∧
    (t.allocQ = s.allocQ ∨ s.pe.state = .allocateBuffer) ∧
    (t.adcQ = s.adcQ ∨ s.pe.state = .rFill) ∧ (t.devwQ = s.devwQ ∨ s.pe.state = .wDispatch) ∧
    (t.pe.state ≠ .waitStart →
      t.pe.id = s.pe.id ∧ t.pe.len = s.pe.len ∧ t.pe.mode = s.pe.mode ∧
      t.pe.rsv0 = s.pe.rsv0 ∧ t.pe.rsv1 = s.pe.rsv1 ∧ t.pe.rsv2 = s.pe.rsv2 ∧ t.pe.rsv3 = s.pe.rsv3) ∧
    (∀ a, (.pe, .release) ∉ t.trace.drop s.trace.length →
      ¬(s.pe.state = .wPayload ∧ s.pe.cnt.map BitVec.toNat = some a) →
      ¬(s.pe.state = .rFill ∧ ∃ len, headerLen i = some len ∧ a < len.toNat) →
      t.pe.buf.read a = s.pe.buf.read a)

/-- Frame of the peripheral's tokens (`START`, `DISCARD`, `STOP`, `STOP.BAD`): the host, the other queue, every input, the header
registers, the buffer and the parameters are untouched; at most one byte leaves `h2p`. -/
def Obligations.PeripheralTokenFrame : Prop :=
  ∀ (i : Instr) (s t : State), (i.context = .peWaitStart ∨ i.context = .peStop) → exec i s = .next t →
    t.hd = s.hd ∧ t.params = s.params ∧ t.script = s.script ∧ t.turn = s.turn ∧ t.p2h = s.p2h ∧
    t.allocQ = s.allocQ ∧ t.adcQ = s.adcQ ∧ t.devwQ = s.devwQ ∧ t.opStart = s.opStart ∧ t.opRetry = s.opRetry ∧
    t.h2p = s.h2p.tail ∧
    t.pe.id = s.pe.id ∧ t.pe.len = s.pe.len ∧ t.pe.mode = s.pe.mode ∧
    t.pe.rsv0 = s.pe.rsv0 ∧ t.pe.rsv1 = s.pe.rsv1 ∧ t.pe.rsv2 = s.pe.rsv2 ∧ t.pe.rsv3 = s.pe.rsv3 ∧
    t.pe.alloc = s.pe.alloc ∧ t.pe.bufRelease = s.pe.bufRelease ∧
    ∀ a, t.pe.buf.read a = s.pe.buf.read a

/-- Frame of the host's instructions (`ACK`, `NACK`, `NACK.OTHER`, `HOST.READ`, `HOST.WRITE`): the peripheral, its inputs and the
parameters are untouched; no instruction writes the frame store; `hd.last_ack` changes only at an acknowledgment position; only
the byte at index `hd.cnt` of `HRX` is stored in `R_RecvPayload` (and the bytes from the length on leave their live range when
the last one is in, log 6); every other byte of `HRX` reads as before. -/
def Obligations.HostInstructionFrame : Prop :=
  ∀ (i : Instr) (s t : State), (i.context = .hdAck ∨ i.context = .hdFrameStore) → exec i s = .next t →
    t.pe = s.pe ∧ t.params = s.params ∧ t.script = s.script ∧ t.turn = s.turn ∧
    t.allocQ = s.allocQ ∧ t.adcQ = s.adcQ ∧ t.devwQ = s.devwQ ∧
    (t.opStart = s.opStart ∨ s.hd.state = .idle) ∧ (t.opRetry = s.opRetry ∨ s.hd.state = .retryPrompt) ∧
    (∀ a, t.hd.hfs.read a = s.hd.hfs.read a) ∧
    (i.context = .hdFrameStore → t.hd.lastAck = s.hd.lastAck ∧ t.hd.rpt = s.hd.rpt) ∧
    (i.context = .hdAck → t.h2p = s.h2p ∧ t.hd.hrx = s.hd.hrx) ∧
    (t.h2p = s.h2p ∨ ∃ b, t.h2p = s.h2p ++ [b]) ∧ (t.p2h = s.p2h ∨ ∃ b, s.p2h = b :: t.p2h) ∧
    (∀ a, ¬(s.hd.state = .rRecvPayload ∧ s.hd.cnt.map BitVec.toNat = some a) →
      ¬(s.hd.state = .rRecvPayload ∧ t.hd.state = .rSendStop ∧ ∃ len, hostFrame i = some len ∧ len.toNat ≤ a) →
      t.hd.hrx.read a = s.hd.hrx.read a)

/-! ## Errors, reset, the environment -/

/-- One cause per frame, in a fixed order (R250): a header bad in both reports the board only, a good board with a bad mode
reports the mode and the allocator is not asked. -/
def Obligations.OneCausePerHeader : Prop :=
  ∀ (s : State) (id len mode : Byte) (rsv : Rsv),
    (s.pe.state = .validateBoard → validateBoard id = false →
      exec (decodeHeader id len mode rsv) s = .next { s with
        trace := s.trace ++ [(.pe, .err .badBoardId (some id))],
        pe := { s.pe with state := .sendNack, cnt := none, evt := some .badBoardId } }) ∧
    (s.pe.state = .validateBoard → validateBoard id = true →
      exec (decodeHeader id len mode rsv) s = .next { s with pe := { s.pe with state := .validateMode, cnt := none } }) ∧
    (s.pe.state = .validateMode → validateMode mode = false →
      exec (decodeHeader id len mode rsv) s = .next { s with
        trace := s.trace ++ [(.pe, .err .badMode (some mode))],
        pe := { s.pe with state := .sendNack, cnt := none, evt := some .badMode } }) ∧
    (s.pe.state = .validateMode → validateMode mode = true →
      exec (decodeHeader id len mode rsv) s = .next { s with pe := { s.pe with state := .allocateBuffer, cnt := none } })

/-- `TransportError` on either engine (R248): the event, the release of a held buffer, the state nothing but reset leaves; no
byte is sent and none is taken. -/
def Obligations.TransportErrorHalts : Prop :=
  ∀ s : State,
    (s.pe.state ≠ .halted →
      envStep (.xportErr .pe) s = .next { s with
        trace := s.trace ++ [(.pe, .err .transportError none)] ++ (if s.pe.alloc then [(.pe, .release)] else []),
        pe := { s.pe with
          state := .halted, cnt := none, evt := some .transportError,
          alloc := false, buf := if s.pe.alloc then [] else s.pe.buf, bufRelease := s.pe.alloc } }) ∧
    (s.hd.state ≠ .fatal →
      envStep (.xportErr .hd) s = .next { s with
        opStart := false, opRetry := false, trace := s.trace ++ [(.hd, .report .transportFatal)],
        hd := { s.hd with state := .fatal, cnt := none, rpt := some .transportFatal } })

/-- Reset of the peripheral (R281, R39): whatever state it was in, the reset state; a held buffer is given back; neither queue and
nothing of the host is touched. (That the environment's answers waiting for the peripheral stay is the model's choice, log 7; that the
release stands in the trace is log 17.) -/
def Obligations.ResetPeripheral : Prop :=
  ∀ s : State, ∃ t, envStep (.reset .pe) s = .next t ∧
    t.pe.state = .waitStart ∧ t.pe.NoHeader ∧ t.pe.cnt = none ∧ t.pe.alloc = false ∧ t.pe.buf = [] ∧ t.pe.evt = none ∧
    t.pe.bufRelease = s.pe.alloc ∧
    t.trace = s.trace ++ (if s.pe.alloc then [(.pe, .release)] else []) ∧
    t = { s with pe := t.pe, trace := t.trace }

/-- Reset of the host (R281, R39): whatever state it was in, `Idle`, without a report; the frame store, both queues and the
peripheral are not touched. (That a trigger not yet taken is lost is the model's choice, log 10.) -/
def Obligations.ResetHost : Prop :=
  ∀ s : State, envStep (.reset .hd) s = .next { s with
    opStart := false, opRetry := false,
    hd := { state := .idle, cnt := none, lastAck := none, hfs := s.hd.hfs, hrx := [], rpt := none } }

/-- The operator's triggers (R212): each is honoured in its own state and ignored in every other. -/
def Obligations.OperatorTriggers : Prop :=
  ∀ s : State,
    envStep (.op .start) s = .next (if s.hd.state = .idle then { s with opStart := true } else s) ∧
    envStep (.op .retry) s = .next (if s.hd.state = .retryPrompt then { s with opRetry := true } else s)

/-- The frame store is loaded only in `Idle`, by a whole frame definition, and then reads back as loaded (R34). The refusal outside
`Idle` is U19's; what a whole frame definition is, and the refusal of any other list, are the model's choice, log 5. -/
def Obligations.StoreLoad : Prop :=
  ∀ (s : State) (bytes : List Byte),
    (s.hd.state ≠ .idle → envStep (.loadStore bytes) s = .refused .storeLoadOutsideIdle) ∧
    (s.hd.state = .idle → (¬∃ len, bytes[2]? = some len ∧ 9 + len.toNat ≤ bytes.length ∧ bytes.length ≤ 264) →
      envStep (.loadStore bytes) s = .refused .storeLoadNotAFrame) ∧
    (∀ len, s.hd.state = .idle → bytes[2]? = some len → 9 + len.toNat ≤ bytes.length → bytes.length ≤ 264 →
      ∃ t, envStep (.loadStore bytes) s = .next t ∧ (∀ a, t.hd.hfs.read a = bytes[a]?) ∧
        t = { s with hd := { s.hd with hfs := t.hd.hfs } })

/-- Channel faults (R40): under `ideal` with unbounded receive FIFOs none is admitted; under `lossy` the environment may delete,
alter or insert a byte of either queue. -/
def Obligations.ChannelFaults : Prop :=
  ∀ (s : State) (d : Dir) (n : Nat) (b : Byte),
    (s.params.channelModel = .ideal → s.params.rxDepthPe = none → s.params.rxDepthHd = none →
      envStep (.chDelete d n) s = .refused .channelFaultNotAdmitted ∧
      envStep (.chAlter d n b) s = .refused .channelFaultNotAdmitted ∧
      envStep (.chInsert d n b) s = .refused .channelFaultNotAdmitted) ∧
    (s.params.channelModel = .lossy →
      envStep (.chDelete .h2p n) s = .next { s with h2p := s.h2p.eraseIdx n } ∧
      envStep (.chDelete .p2h n) s = .next { s with p2h := s.p2h.eraseIdx n } ∧
      envStep (.chAlter .h2p n b) s = .next { s with h2p := s.h2p.set n b } ∧
      envStep (.chAlter .p2h n b) s = .next { s with p2h := s.p2h.set n b } ∧
      envStep (.chInsert .h2p n b) s = .next { s with h2p := s.h2p.insertIdx n b } ∧
      envStep (.chInsert .p2h n b) s = .next { s with p2h := s.p2h.insertIdx n b })

/-! ## The whole machine -/

/-- The reset state meets the machine's invariants. -/
def Obligations.ResetMeetsInvariants : Prop :=
  State.reset.Inv ∧ State.reset.ChannelInOrder ∧ State.reset.BufferAccounted ∧ State.reset.InStep

/-- Every step keeps the live ranges of registers, counters and buffers, the canonical form of the stores, and what each state says
of them (R27). -/
def Obligations.StepKeepsLiveRanges : Prop :=
  ∀ s t : State, s.Inv → step s = .next t → t.Inv

/-- No rule reads a register or byte outside its live range (R27): from a state that meets the invariant no step faults, but for the
host's cycle being started over a frame store nothing was ever loaded into (R283, log 4). -/
def Obligations.NoReadOutsideLiveRange : Prop :=
  ∀ (s : State) (f : Fault), s.Inv → step s = .fault f →
    f = .storeNotLoaded ∧ s.hd.state = .idle ∧ s.opStart = true ∧ s.hd.hfs = []

/-- A step never executes an instruction at a position that is not its own, from any state whatever (R92). -/
def Obligations.StepReadsAtPosition : Prop :=
  ∀ s : State, step s ≠ .fault .outOfPosition

/-- Only reset leaves `Halted` and `Fatal` (R280); there the engine performs no event: it takes nothing and sends nothing. -/
def Obligations.OnlyResetLeavesHalt : Prop :=
  ∀ s t : State, step s = .next t →
    (s.pe.state = .halted → s.script.head? ≠ some (.env (.reset .pe)) →
      t.pe.state = .halted ∧ t.trace.filter (·.1 = .pe) = s.trace.filter (·.1 = .pe)) ∧
    (s.hd.state = .fatal → s.script.head? ≠ some (.env (.reset .hd)) →
      t.hd.state = .fatal ∧ t.trace.filter (·.1 = .hd) = s.trace.filter (·.1 = .hd))

/-- Nothing is shared between the engines except the channel (R20). Writing: a row of one leaves the other's whole state unchanged,
takes bytes only from its own incoming queue and adds only to its own outgoing one. Reading: two states that agree on an engine's own
state, its incoming queue, its inputs and whether the Transport takes a byte from it have the same row, whatever the other engine,
the outgoing queue (R40) and the trace hold. -/
def Obligations.NothingSharedButChannel : Prop :=
  (∀ s t : State,
    (agentStep .pe s = .next t →
      t.hd = s.hd ∧ t.opStart = s.opStart ∧ t.opRetry = s.opRetry ∧
      (t.h2p = s.h2p ∨ ∃ b, s.h2p = b :: t.h2p) ∧ (t.p2h = s.p2h ∨ ∃ b, t.p2h = s.p2h ++ [b])) ∧
    (agentStep .hd s = .next t →
      t.pe = s.pe ∧ t.allocQ = s.allocQ ∧ t.adcQ = s.adcQ ∧ t.devwQ = s.devwQ ∧
      (t.p2h = s.p2h ∨ ∃ b, s.p2h = b :: t.p2h) ∧ (t.h2p = s.h2p ∨ ∃ b, t.h2p = s.h2p ++ [b]))) ∧
  (∀ s s' t : State,
    (s.pe = s'.pe → s.params.allocModel = s'.params.allocModel → s.h2p = s'.h2p → s.allocQ = s'.allocQ →
      s.adcQ = s'.adcQ → s.devwQ = s'.devwQ → s.hasRoom .p2h = s'.hasRoom .p2h → agentStep .pe s = .next t →
      ∃ t' sent new, agentStep .pe s' = .next t' ∧ t'.pe = t.pe ∧ t'.h2p = t.h2p ∧ t'.allocQ = t.allocQ ∧
        t'.adcQ = t.adcQ ∧ t'.devwQ = t.devwQ ∧ t.p2h = s.p2h ++ sent ∧ t'.p2h = s'.p2h ++ sent ∧
        t.trace = s.trace ++ new ∧ t'.trace = s'.trace ++ new) ∧
    (s.hd = s'.hd → s.p2h = s'.p2h → s.opStart = s'.opStart → s.opRetry = s'.opRetry →
      s.hasRoom .h2p = s'.hasRoom .h2p → agentStep .hd s = .next t →
      ∃ t' sent new, agentStep .hd s' = .next t' ∧ t'.hd = t.hd ∧ t'.p2h = t.p2h ∧ t'.opStart = t.opStart ∧
        t'.opRetry = t.opRetry ∧ t.h2p = s.h2p ++ sent ∧ t'.h2p = s'.h2p ++ sent ∧
        t.trace = s.trace ++ new ∧ t'.trace = s'.trace ++ new))

/-- A wait that nothing ends is a hang, never a fault and never a step that completes by itself (R290): an engine whose
primitive cannot complete changes nothing but the pulses it drops: every row of R290's table, the sending states included. (That a
wait is a next state is log 8; that the one-cycle pulses drop at the engine's move is the model's choice, log 9; the answers' queues are log 7, that
a waiting write call is not yet recorded is log 18, and when the Transport takes a byte is log 12.) -/
def Obligations.BlockedEngineWaits : Prop :=
  ∀ s : State,
    (s.h2p = [] → (s.pe.state = .waitStart ∨ s.pe.state = .wStop ∨ s.pe.state = .rStop) →
      agentStep .pe s = .next s.dropPePulses) ∧
    (∀ c, s.h2p = [] → s.pe.state = .readHeader → s.pe.cnt = some c → 1 ≤ c.toNat → c.toNat ≤ 7 →
      agentStep .pe s = .next s.dropPePulses) ∧
    (∀ c len, s.h2p = [] → s.pe.state = .wPayload → s.pe.HeaderLive → s.pe.cnt = some c → s.pe.len = some len →
      c.toNat < len.toNat → agentStep .pe s = .next s.dropPePulses) ∧
    (s.pe.state = .allocateBuffer → s.pe.Writing ∨ s.pe.Reading → s.params.allocModel = .oracle → s.allocQ = [] →
      agentStep .pe s = .next s.dropPePulses) ∧
    (s.pe.state = .wDispatch → s.pe.HeaderLive → s.devwQ = 0 → agentStep .pe s = .next s.dropPePulses) ∧
    (∀ len, s.pe.state = .rFill → s.pe.HeaderLive → s.pe.len = some len → s.adcQ.length < len.toNat →
      agentStep .pe s = .next s.dropPePulses) ∧
    (s.p2h = [] → (s.hd.state = .waitHdrAck ∧ s.hd.hfs.frameLoaded = true ∨ s.hd.state = .wWaitFinal ∨
      s.hd.state = .rWaitFinal) → agentStep .hd s = .next s.dropHdPulses) ∧
    (∀ c len, s.p2h = [] → s.hd.state = .rRecvPayload → s.hd.hfs.frameLoaded = true → s.hd.cnt = some c →
      s.hd.hfs.read 2 = some len → c.toNat < len.toNat → agentStep .hd s = .next s.dropHdPulses) ∧
    (s.hd.state = .idle ∧ s.opStart = false ∨ s.hd.state = .retryPrompt ∧ s.opRetry = false →
      agentStep .hd s = .next s.dropHdPulses) ∧
    (s.hasRoom .p2h = false → s.pe.HeaderLive →
      s.pe.state ∈ [PeState.sendNack, .wHdrAck, .wFinalAck, .rHdrAck, .rFinalAck] →
      agentStep .pe s = .next s.dropPePulses) ∧
    (∀ c len b, s.hasRoom .p2h = false → s.pe.state = .rStream → s.pe.HeaderLive → s.pe.cnt = some c →
      s.pe.len = some len → c.toNat < len.toNat → s.pe.buf.read c.toNat = some b →
      agentStep .pe s = .next s.dropPePulses) ∧
    (s.hasRoom .h2p = false → s.hd.hfs.frameLoaded = true → (s.hd.state = .wSendStop ∨ s.hd.state = .rSendStop) →
      agentStep .hd s = .next s.dropHdPulses) ∧
    (∀ c, s.hasRoom .h2p = false → s.hd.hfs.frameLoaded = true → s.hd.state = .sendHeader → s.hd.cnt = some c →
      c.toNat ≤ 7 → agentStep .hd s = .next s.dropHdPulses) ∧
    (∀ c len, s.hasRoom .h2p = false → s.hd.hfs.frameLoaded = true → s.hd.state = .wSendPayload → s.hd.cnt = some c →
      s.hd.hfs.read 2 = some len → c.toNat < len.toNat → agentStep .hd s = .next s.dropHdPulses)

/-- The trace only grows, and the capabilities are called where R138 and R139 say: a write capability only in `W_Dispatch`, with the
device of the header, the capability R131 selects for it and the whole payload in the buffer; the ADC only in `R_Fill`. -/
def Obligations.CapabilityCallsOnlyWhereAllowed : Prop :=
  ∀ s t : State, step s = .next t → ∃ new, t.trace = s.trace ++ new ∧
    (∀ k d bytes, (.pe, .devw k d bytes) ∈ new →
      s.pe.state = .wDispatch ∧ k = (if d = 0 then .led else .lcd) ∧ s.pe.id.map deviceOf = some d ∧
        ∃ len, s.pe.len = some len ∧ s.pe.buf.readSeq 0 len.toNat = some bytes) ∧
    (∀ k d n bytes, (.pe, .devr k d n bytes) ∈ new →
      s.pe.state = .rFill ∧ k = .adc ∧ s.pe.id.map deviceOf = some d ∧ s.pe.len = some n ∧ bytes.length = n.toNat ∧
        s.adcQ = bytes ++ t.adcQ ∧ t.pe.buf = s.pe.buf.writeSeq 0 bytes)

/-- Channel order (R60): on an ideal channel, in each direction, the bytes received are the bytes sent, in order and each once, less
those in flight; every step keeps it. -/
def Obligations.ChannelOrderKept : Prop :=
  ∀ s t : State, s.params.channelModel = .ideal → s.params.rxDepthPe = none → s.params.rxDepthHd = none →
    s.ChannelInOrder → step s = .next t → t.ChannelInOrder

/-- `Release` happens exactly as often as an allocation was answered true, but for the buffer still held (R177, R24); every step keeps
it, resets and Transport failures included. -/
def Obligations.BufferAccountingKept : Prop :=
  ∀ s t : State, s.Inv → s.BufferAccounted → step s = .next t → t.BufferAccounted

/-- The ports tell every transfer (R28, R38): an engine takes a byte only with `rx_ready` 1, and the byte it sends is the one on `tx_data`. -/
def Obligations.PortsTellTransfers : Prop :=
  ∀ s t : State, s.Inv →
    (agentStep .pe s = .next t →
      (t.h2p ≠ s.h2p → s.peRxReady = true) ∧ (∀ b, t.p2h = s.p2h ++ [b] → s.peTx = some b)) ∧
    (agentStep .hd s = .next t →
      (t.p2h ≠ s.p2h → s.hdRxReady = true) ∧ (∀ b, t.h2p = s.h2p ++ [b] → s.hdTx = some b))

/-! ## Whole frames -/

/-- A Write frame of any length, payload and reserved bytes with stop byte 0x01 (R172, R173): exactly two `ACK`s, the payload handed
intact to the device it names, the buffer released, and the engine scanning again; the trace is the one the rules give. -/
def Obligations.WriteFrameDelivered : Prop :=
  ∀ (s : State) (i : Instr) (d : DevId) (len id r0 r1 r2 r3 : Byte) (payload rest : List Byte) (q : List Bool) (n : Nat)
    (ms : List Move),
    writeFrame i = some (d, len) → encode i = [0xFE, id, len, 0x02, r0, r1, r2, r3] → payload.length = len.toNat →
    s.pe.state = .waitStart → s.pe.buf = [] → s.params.allocModel = .oracle → s.params.backPressure = false →
    s.h2p = encode i ++ payload ++ [0x01] ++ rest → s.allocQ = true :: q → s.devwQ = n + 1 →
    s.script = List.replicate (len.toNat + 16) (.run .pe) ++ ms →
    ∃ t, Sys2Proof.core.run (len.toNat + 16) s = .next t ∧
      t.h2p = rest ∧ t.p2h = s.p2h ++ [0x0F, 0x0F] ∧
      t.trace = s.trace ++ eventsOf .pe
        ([.rx 0xFE, .rx id, .rx len, .rx 0x02, .rx r0, .rx r1, .rx r2, .rx r3, .alloc len true, .tx 0x0F] ++
          payload.map .rx ++ [.rx 0x01, .tx 0x0F, .devw (if d = 0 then .led else .lcd) d payload, .release]) ∧
      t.pe.state = .waitStart ∧ t.pe.NoHeader ∧ t.pe.alloc = false ∧ t.pe.buf = [] ∧
      t.pe.evt = some .frameDoneWrite ∧ t.hd = s.hd ∧ t.script = ms

/-- A Write frame whose stop byte is not 0x01 (R164): `ACK` then `NACK`, no device dispatch, the buffer released, the engine
scanning from the byte after the stop byte. -/
def Obligations.WriteStopErrorNotDispatched : Prop :=
  ∀ (s : State) (i : Instr) (d : DevId) (len id r0 r1 r2 r3 b : Byte) (payload rest : List Byte) (q : List Bool)
    (ms : List Move),
    writeFrame i = some (d, len) → encode i = [0xFE, id, len, 0x02, r0, r1, r2, r3] → payload.length = len.toNat →
    b ≠ 0x01 →
    s.pe.state = .waitStart → s.pe.buf = [] → s.params.allocModel = .oracle → s.params.backPressure = false →
    s.h2p = encode i ++ payload ++ [b] ++ rest → s.allocQ = true :: q →
    s.script = List.replicate (len.toNat + 15) (.run .pe) ++ ms →
    ∃ t, Sys2Proof.core.run (len.toNat + 15) s = .next t ∧
      t.h2p = rest ∧ t.p2h = s.p2h ++ [0x0F, 0xF0] ∧
      t.trace = s.trace ++ eventsOf .pe
        ([.rx 0xFE, .rx id, .rx len, .rx 0x02, .rx r0, .rx r1, .rx r2, .rx r3, .alloc len true, .tx 0x0F] ++
          payload.map .rx ++ [.rx b, .err .stopByteError (some b), .tx 0xF0, .release]) ∧
      t.pe.state = .waitStart ∧ t.pe.NoHeader ∧ t.pe.alloc = false ∧ t.pe.buf = [] ∧
      t.devwQ = s.devwQ ∧ t.hd = s.hd ∧ t.script = ms

/-- A Read frame of any length and any samples with stop byte 0x01 (R171): `ACK`, the samples unaltered and in order, `ACK`; the
buffer released before the stop byte is received. -/
def Obligations.ReadFrameStreamed : Prop :=
  ∀ (s : State) (d : DevId) (len id r0 r1 r2 r3 : Byte) (samples rest : List Byte) (q : List Bool) (aq : List Byte)
    (ms : List Move),
    encode (.readAdc d len ⟨r0, r1, r2, r3⟩) = [0xFE, id, len, 0x01, r0, r1, r2, r3] → samples.length = len.toNat →
    s.pe.state = .waitStart → s.pe.buf = [] → s.params.allocModel = .oracle → s.params.backPressure = false →
    s.h2p = encode (.readAdc d len ⟨r0, r1, r2, r3⟩) ++ [0x01] ++ rest → s.allocQ = true :: q → s.adcQ = samples ++ aq →
    s.script = List.replicate (len.toNat + 16) (.run .pe) ++ ms →
    ∃ t, Sys2Proof.core.run (len.toNat + 16) s = .next t ∧
      t.h2p = rest ∧ t.p2h = s.p2h ++ [0x0F] ++ samples ++ [0x0F] ∧ t.adcQ = aq ∧
      t.trace = s.trace ++ eventsOf .pe
        ([.rx 0xFE, .rx id, .rx len, .rx 0x01, .rx r0, .rx r1, .rx r2, .rx r3, .alloc len true, .tx 0x0F,
          .devr .adc d len samples] ++ samples.map .tx ++ [.release, .rx 0x01, .tx 0x0F]) ∧
      t.pe.state = .waitStart ∧ t.pe.NoHeader ∧ t.pe.alloc = false ∧ t.pe.buf = [] ∧
      t.pe.evt = some .frameDoneRead ∧ t.hd = s.hd ∧ t.script = ms

/-- A header with bad board bits, or with a good board and a bad mode, or one the allocator refuses (R156, R157, R176): exactly one
`NACK`, no buffer taken, no capability called, and the engine scanning from the byte after the eighth. -/
def Obligations.HeaderErrorOneNack : Prop :=
  ∀ (s : State) (id len mode r0 r1 r2 r3 : Byte) (rest : List Byte) (ms : List Move),
    s.pe.state = .waitStart → s.pe.alloc = false → s.params.backPressure = false →
    s.h2p = [0xFE, id, len, mode, r0, r1, r2, r3] ++ rest →
    (id &&& 0xFC ≠ 0x00 → s.script = List.replicate 10 (.run .pe) ++ ms →
      ∃ t, Sys2Proof.core.run 10 s = .next t ∧ t.h2p = rest ∧ t.p2h = s.p2h ++ [0xF0] ∧
        t.trace = s.trace ++ eventsOf .pe
          [.rx 0xFE, .rx id, .rx len, .rx mode, .rx r0, .rx r1, .rx r2, .rx r3, .err .badBoardId (some id), .tx 0xF0] ∧
        t.pe.state = .waitStart ∧ t.pe.NoHeader ∧ t.pe.alloc = false ∧ t.pe.buf = s.pe.buf ∧
        t.allocQ = s.allocQ ∧ t.adcQ = s.adcQ ∧ t.devwQ = s.devwQ ∧ t.hd = s.hd) ∧
    (id &&& 0xFC = 0x00 → mode ≠ 0x01 → mode ≠ 0x02 → s.script = List.replicate 11 (.run .pe) ++ ms →
      ∃ t, Sys2Proof.core.run 11 s = .next t ∧ t.h2p = rest ∧ t.p2h = s.p2h ++ [0xF0] ∧
        t.trace = s.trace ++ eventsOf .pe
          [.rx 0xFE, .rx id, .rx len, .rx mode, .rx r0, .rx r1, .rx r2, .rx r3, .err .badMode (some mode), .tx 0xF0] ∧
        t.pe.state = .waitStart ∧ t.pe.NoHeader ∧ t.pe.alloc = false ∧ t.pe.buf = s.pe.buf ∧
        t.allocQ = s.allocQ ∧ t.adcQ = s.adcQ ∧ t.devwQ = s.devwQ ∧ t.hd = s.hd) ∧
    (∀ q, id &&& 0xFC = 0x00 → (mode = 0x01 ∨ mode = 0x02) → s.params.allocModel = .oracle → s.allocQ = false :: q →
      s.script = List.replicate 12 (.run .pe) ++ ms →
      ∃ t, Sys2Proof.core.run 12 s = .next t ∧ t.h2p = rest ∧ t.p2h = s.p2h ++ [0xF0] ∧
        t.trace = s.trace ++ eventsOf .pe
          [.rx 0xFE, .rx id, .rx len, .rx mode, .rx r0, .rx r1, .rx r2, .rx r3, .alloc len false,
            .err .allocationFailure (some len), .tx 0xF0] ∧
        t.pe.state = .waitStart ∧ t.pe.NoHeader ∧ t.pe.alloc = false ∧ t.pe.buf = s.pe.buf ∧
        t.allocQ = q ∧ t.adcQ = s.adcQ ∧ t.devwQ = s.devwQ ∧ t.hd = s.hd)

/-- A host Write cycle whose header is acknowledged (R214): all `len + 9` stored bytes are sent as stored, two are received, and the
report follows the final acknowledgment. -/
def Obligations.HostWriteCycle : Prop :=
  ∀ (s : State) (hdr payload rest : List Byte) (len mode stop a : Byte) (ms : List Move),
    hdr.length = 8 → hdr[2]? = some len → hdr[3]? = some mode → mode ≠ 0x01 → payload.length = len.toNat →
    s.hd.hfs.readSeq 0 (9 + len.toNat) = some (hdr ++ payload ++ [stop]) →
    s.hd.state = .idle → s.opStart = true → s.params.backPressure = false → s.p2h = 0x0F :: a :: rest →
    s.script = List.replicate (len.toNat + 13) (.run .hd) ++ ms →
    ∃ t, Sys2Proof.core.run (len.toNat + 13) s = .next t ∧
      t.h2p = s.h2p ++ hdr ++ payload ++ [stop] ∧ t.p2h = rest ∧
      t.trace = s.trace ++ eventsOf .hd
        ([.op .start] ++ hdr.map .tx ++ [.rx 0x0F] ++ payload.map .tx ++
          [.tx stop, .rx a, .report (if a = 0x0F then .success else .stopBitsError)]) ∧
      t.hd.state = .idle ∧ t.hd.lastAck = some a ∧ t.hd.hfs = s.hd.hfs ∧ t.hd.hrx = s.hd.hrx ∧
      t.pe = s.pe ∧ t.opStart = false ∧ t.script = ms

/-- A host Read cycle whose header is acknowledged (R215): the eight header bytes and the stop byte are sent, the payload received
goes to `HRX` unexamined, the stored payload is never sent, and the report follows the final acknowledgment. -/
def Obligations.HostReadCycle : Prop :=
  ∀ (s : State) (hdr payload got rest : List Byte) (len stop a : Byte) (ms : List Move),
    hdr.length = 8 → hdr[2]? = some len → hdr[3]? = some 0x01 → payload.length = len.toNat → got.length = len.toNat →
    s.hd.hfs.readSeq 0 (9 + len.toNat) = some (hdr ++ payload ++ [stop]) →
    s.hd.state = .idle → s.opStart = true → s.params.backPressure = false → s.p2h = 0x0F :: (got ++ a :: rest) →
    s.script = List.replicate (len.toNat + 13) (.run .hd) ++ ms →
    ∃ t, Sys2Proof.core.run (len.toNat + 13) s = .next t ∧
      t.h2p = s.h2p ++ hdr ++ [stop] ∧ t.p2h = rest ∧
      t.trace = s.trace ++ eventsOf .hd
        ([.op .start] ++ hdr.map .tx ++ [.rx 0x0F] ++ got.map .rx ++
          [.tx stop, .rx a, .report (if a = 0x0F then .success else .stopBitsError)]) ∧
      t.hd.state = .idle ∧ t.hd.lastAck = some a ∧ t.hd.hrx.readSeq 0 len.toNat = some got ∧ t.hd.hfs = s.hd.hfs ∧
      t.pe = s.pe ∧ t.opStart = false ∧ t.script = ms

/-- A rejected header and the operator's retry (R206): the driver reports, waits for `retry`, and sends the same eight bytes again. -/
def Obligations.HostRetrySendsSameHeader : Prop :=
  ∀ (s : State) (hdr rest : List Byte) (b : Byte) (ms : List Move),
    hdr.length = 8 → s.hd.hfs.readSeq 0 8 = some hdr →
    s.hd.state = .idle → s.opStart = true → s.params.backPressure = false → b ≠ 0x0F → s.p2h = b :: rest →
    s.script = List.replicate 10 (.run .hd) ++ [.env (.op .retry)] ++ List.replicate 9 (.run .hd) ++ ms →
    ∃ t, Sys2Proof.core.run 20 s = .next t ∧
      t.h2p = s.h2p ++ hdr ++ hdr ∧ t.p2h = rest ∧
      t.trace = s.trace ++ eventsOf .hd
        ([.op .start] ++ hdr.map .tx ++ [.rx b, .report .headerNack, .op .retry] ++ hdr.map .tx) ∧
      t.hd.state = .waitHdrAck ∧ t.hd.lastAck = some b ∧ t.hd.hfs = s.hd.hfs ∧ t.pe = s.pe ∧ t.script = ms

/-! ## The two engines together -/

/-- Two conforming engines over a channel the environment leaves alone stay in step: where each is in the frame, what is in flight,
and which bytes have been delivered agree (R63, R217); every conforming move keeps it. -/
def Obligations.EnginesStayInStep : Prop :=
  ∀ s t : State, s.Inv → s.InStep → (∀ m, s.script.head? = some m → m.Conforming) → step s = .next t → t.InStep

/-- Half-duplex (R64): of two engines in step at most one queue is non-empty, and at most one engine is in a sending state. -/
def Obligations.HalfDuplex : Prop :=
  ∀ s : State, s.Inv → s.InStep → (s.h2p = [] ∨ s.p2h = []) ∧ ¬(s.PeSending ∧ s.HdSending)

/-- The host's final report (R217): of two engines in step, a cycle ends in `Success` exactly when the stored stop byte is 0x01, and a
Read has then put the ADC's bytes into `HRX`, whatever the stop byte. -/
def Obligations.FinalReportIsDetermined : Prop :=
  ∀ s t : State, s.Inv → s.InStep → agentStep .hd s = .next t → t.hd.state = .idle →
    (s.hd.state = .wWaitFinal ∨ s.hd.state = .rWaitFinal) →
    (t.hd.rpt = some .success ↔ s.hd.stopByte = some 0x01) ∧
    (t.hd.rpt = some .success ∨ t.hd.rpt = some .stopBitsError) ∧
    (s.hd.state = .rWaitFinal → ∃ len, s.hd.hfs.read 2 = some len ∧
      t.hd.hrx.readSeq 0 len.toNat = some (lastSample t.trace))

/-- The payload reaches the buffer intact (R52): of two engines in step, when the peripheral has the whole payload of a Write and its
stop byte is on the way, `BUF` holds the stored payload, byte for byte. -/
def Obligations.PayloadIntact : Prop :=
  ∀ s t : State, s.Inv → s.InStep → s.pe.state = .wStop → s.hd.state = .wWaitFinal → agentStep .pe s = .next t →
    t.pe.state ≠ .wStop → ∃ len, s.hd.hfs.read 2 = some len ∧
      t.pe.buf.readSeq 0 len.toNat = s.hd.hfs.readSeq 8 len.toNat

/-! ## The Transport's receive FIFO, and the codes of the ports -/

/-- A bounded receive FIFO (R293, U18; log 11, log 12). On a line that is not lossy the environment alters and inserts nothing, and
deletes a byte just when the FIFO has no back-pressure, more bytes wait than it holds, and its depth is below what the guarantees need
(8 toward the peripheral, 1 toward the host) or the engine is not receiving. A send waits just when back-pressure is set and the
FIFO is full; a line of depth 0 takes a byte while it is empty and the engine is receiving. -/
def Obligations.BoundedReceiveFifo : Prop :=
  ∀ (s : State) (i n : Nat) (b : Byte), s.params.channelModel = .ideal →
    (∀ d, envStep (.chAlter d i b) s = .refused .channelFaultNotAdmitted ∧
      envStep (.chInsert d i b) s = .refused .channelFaultNotAdmitted) ∧
    (s.params.backPressure = true → ∀ d, envStep (.chDelete d i) s = .refused .channelFaultNotAdmitted) ∧
    (s.params.backPressure = false → ∀ d, s.hasRoom d = true) ∧
    (s.params.rxDepthPe = some n →
      (s.h2p.length ≤ n ∨ 8 ≤ n ∧ s.peRxReady = true →
        envStep (.chDelete .h2p i) s = .refused .channelFaultNotAdmitted) ∧
      (s.params.backPressure = false → n < s.h2p.length → (n < 8 ∨ s.peRxReady = false) →
        envStep (.chDelete .h2p i) s = .next { s with h2p := s.h2p.eraseIdx i }) ∧
      (s.params.backPressure = true →
        (s.hasRoom .h2p = true ↔ s.h2p.length < n ∨ s.h2p = [] ∧ s.peRxReady = true))) ∧
    (s.params.rxDepthHd = some n →
      (s.p2h.length ≤ n ∨ 1 ≤ n ∧ s.hdRxReady = true →
        envStep (.chDelete .p2h i) s = .refused .channelFaultNotAdmitted) ∧
      (s.params.backPressure = false → n < s.p2h.length → (n < 1 ∨ s.hdRxReady = false) →
        envStep (.chDelete .p2h i) s = .next { s with p2h := s.p2h.eraseIdx i }) ∧
      (s.params.backPressure = true →
        (s.hasRoom .p2h = true ↔ s.p2h.length < n ∨ s.p2h = [] ∧ s.hdRxReady = true)))

/-- A FIFO of 8 bytes toward the peripheral and 1 toward the host is enough (R293): while the two engines are in step no byte can be
lost on a line that is not lossy. -/
def Obligations.EightAndOneSuffice : Prop :=
  ∀ (s : State) (d : Dir) (i : Nat), s.Inv → s.InStep → s.params.channelModel = .ideal →
    (∀ n, s.params.rxDepthPe = some n → 8 ≤ n) → (∀ n, s.params.rxDepthHd = some n → 1 ≤ n) →
    envStep (.chDelete d i) s = .refused .channelFaultNotAdmitted

/-- The codes on the status port (R29) and on the report port (R213), and the status each error cause raises (R241). -/
def Obligations.PortCodes : Prop :=
  ∀ s : State,
    (s.pe.evt = none → s.evtPort = none) ∧
    (s.pe.evt = some .frameDoneWrite → s.evtPort = some 0x0) ∧
    (s.pe.evt = some Cause.badBoardId.status → s.evtPort = some 0x1) ∧
    (s.pe.evt = some Cause.badMode.status → s.evtPort = some 0x2) ∧
    (s.pe.evt = some Cause.allocationFailure.status → s.evtPort = some 0x3) ∧
    (s.pe.evt = some Cause.stopByteError.status → s.evtPort = some 0x4) ∧
    (s.pe.evt = some Cause.transportError.status → s.evtPort = some 0x5) ∧
    (s.pe.evt = some .frameDoneRead → s.evtPort = some 0x6) ∧
    (s.hd.rpt = none → s.rptPort = none) ∧
    (s.hd.rpt = some .success → s.rptPort = some 0) ∧
    (s.hd.rpt = some .headerNack → s.rptPort = some 1) ∧
    (s.hd.rpt = some .stopBitsError → s.rptPort = some 2) ∧
    (s.hd.rpt = some .transportFatal → s.rptPort = some 3)
end

