-- ==== Sys2Proof/Laws/Memory.lean ====
section
/-! SUPPORT. The laws of the byte stores: read after write, the canonical form kept by every operation, sequences. -/

namespace Sys2Proof.Machine

/-- A write is read back at its own address. -/
theorem Memory.read_write_self (m : Memory) (a : Nat) (b : Byte) : (m.write a b).read a = some b := by
  induction m with
  | nil => simp [Memory.write, Memory.read]
  | cons c m ih =>
    obtain ⟨a', b'⟩ := c
    unfold Memory.write
    split
    · simp [Memory.read]
    · split
      · simp [Memory.read]
      · simp_all [Memory.read]

/-- A write leaves every other address alone. -/
theorem Memory.read_write_other (m : Memory) {a a' : Nat} (b : Byte) (h : a' ≠ a) :
    (m.write a b).read a' = m.read a' := by
  induction m with
  | nil => simp [Memory.write, Memory.read, h]
  | cons c m ih =>
    obtain ⟨a₁, b₁⟩ := c
    unfold Memory.write
    split
    · simp [Memory.read, h]
    · split
      · rename_i _ heq
        subst heq
        simp [Memory.read, h]
      · simp_all [Memory.read]

/-- The addresses of a store after a write. -/
theorem Memory.mem_write {m : Memory} {a : Nat} {b : Byte} {c : Host.Cell} (h : c ∈ m.write a b) :
    c = (a, b) ∨ c ∈ m := by
  induction m with
  | nil => simpa [Memory.write] using h
  | cons d m ih =>
    obtain ⟨a₁, b₁⟩ := d
    unfold Memory.write at h
    split at h
    · simpa using h
    · split at h
      · rcases List.mem_cons.1 h with h | h
        · exact .inl h
        · exact .inr (List.mem_cons_of_mem _ h)
      · rcases List.mem_cons.1 h with h | h
        · exact .inr (h ▸ List.mem_cons_self ..)
        · exact (ih h).imp id (List.mem_cons_of_mem _)

/-- A write keeps the canonical form. -/
theorem Memory.write_wf {m : Memory} (a : Nat) (b : Byte) (h : m.wf) : (m.write a b).wf := by
  induction m with
  | nil => simp [Memory.write, Memory.wf]
  | cons c m ih =>
    obtain ⟨a₁, b₁⟩ := c
    obtain ⟨h₁, h₂⟩ := List.pairwise_cons.1 h
    unfold Memory.write
    split
    · rename_i hlt
      refine List.pairwise_cons.2 ⟨fun d hd => ?_, h⟩
      rcases List.mem_cons.1 hd with rfl | hd
      · exact hlt
      · exact Nat.lt_trans hlt (h₁ d hd)
    · split
      · rename_i _ heq
        subst heq
        exact List.pairwise_cons.2 ⟨h₁, h₂⟩
      · rename_i hnlt hne
        refine List.pairwise_cons.2 ⟨fun d hd => ?_, ih h₂⟩
        rcases Memory.mem_write hd with rfl | hd
        · show a₁ < a
          omega
        · exact h₁ d hd

/-- Writing a sequence keeps the canonical form. -/
theorem Memory.writeSeq_wf {m : Memory} (a : Nat) (bs : List Byte) (h : m.wf) : (m.writeSeq a bs).wf := by
  induction bs generalizing m a with
  | nil => exact h
  | cons b bs ih => exact ih (a + 1) (Memory.write_wf a b h)

/-- The bytes below an address keep the canonical form. -/
theorem Memory.truncate_wf {m : Memory} (n : Nat) (h : m.wf) : (m.truncate n).wf :=
  List.Pairwise.sublist List.filter_sublist h

/-- A loaded store is canonical. -/
theorem Memory.ofBytes_wf (bs : List Byte) : (Memory.ofBytes bs).wf :=
  Memory.writeSeq_wf 0 bs List.Pairwise.nil

/-- Writing a sequence leaves the addresses outside it alone. -/
theorem Memory.read_writeSeq_other (m : Memory) (a : Nat) (bs : List Byte) {x : Nat}
    (h : x < a ∨ a + bs.length ≤ x) : (m.writeSeq a bs).read x = m.read x := by
  induction bs generalizing m a with
  | nil => rfl
  | cons b bs ih =>
    have hl : (b :: bs).length = bs.length + 1 := rfl
    have := ih (m.write a b) (a + 1) (by omega)
    rw [Memory.writeSeq, this, Memory.read_write_other m b (by omega)]

/-- Reading byte `i` of a written sequence. -/
theorem Memory.read_writeSeq (m : Memory) (a : Nat) (bs : List Byte) {i : Nat} (h : i < bs.length) :
    (m.writeSeq a bs).read (a + i) = bs[i]? := by
  induction bs generalizing m a i with
  | nil => simp at h
  | cons b bs ih =>
    cases i with
    | zero =>
      rw [Memory.writeSeq, Memory.read_writeSeq_other _ _ _ (by omega)]
      simp [Memory.read_write_self]
    | succ i =>
      have := ih (m.write a b) (a + 1) (i := i) (by simpa using h)
      rw [Memory.writeSeq, show a + (i + 1) = a + 1 + i by omega, this]
      simp

/-- The bytes below the bound read as before, the others hold no value. -/
theorem Memory.read_truncate (m : Memory) (n a : Nat) :
    (m.truncate n).read a = if a < n then m.read a else none := by
  induction m with
  | nil => simp [Memory.truncate, Memory.read]
  | cons c m ih =>
    obtain ⟨a', b'⟩ := c
    unfold Memory.truncate at ih ⊢
    by_cases h : a' < n
    · simp only [List.filter_cons, h, decide_true, if_true, Memory.read, ih]
      by_cases h2 : a = a'
      · simp [h2, h]
      · simp [h2]
    · simp only [List.filter_cons, h, decide_false, Bool.false_eq_true, if_false, Memory.read, ih]
      by_cases h2 : a = a'
      · simp [h2, h]
      · simp [h2]

/-- A sequence is readable exactly when each of its bytes is. -/
theorem Memory.readSeq_eq_some {m : Memory} {a n : Nat} {bs : List Byte} :
    m.readSeq a n = some bs ↔ bs.length = n ∧ ∀ i, i < n → m.read (a + i) = bs[i]? := by
  induction n generalizing a bs with
  | zero => cases bs <;> simp [Memory.readSeq]
  | succ n ih =>
    unfold Memory.readSeq
    constructor
    · intro h
      split at h
      · rename_i b bs' h1 h2
        obtain ⟨hl, hr⟩ := ih.1 h2
        cases h
        refine ⟨by simp [hl], fun i hi => ?_⟩
        cases i with
        | zero => simpa using h1
        | succ i => simpa [show a + (i + 1) = a + 1 + i by omega] using hr i (by omega)
      · cases h
    · rintro ⟨hl, hr⟩
      cases bs with
      | nil => simp at hl
      | cons b bs =>
        have h1 : m.read a = some b := by simpa using hr 0 (by omega)
        have h2 : m.readSeq (a + 1) n = some bs :=
          ih.2 ⟨by simpa using hl, fun i hi => by
            simpa [show a + (i + 1) = a + 1 + i by omega] using hr (i + 1) (by omega)⟩
        simp [h1, h2]

/-- A sequence can be read exactly when every byte of it holds a value. -/
theorem Memory.readSeq_isSome {m : Memory} {a n : Nat} :
    (m.readSeq a n).isSome ↔ ∀ i, i < n → (m.read (a + i)).isSome := by
  induction n generalizing a with
  | zero => simp [Memory.readSeq]
  | succ n ih =>
    unfold Memory.readSeq
    constructor
    · intro h i hi
      split at h
      · rename_i b bs' h1 h2
        cases i with
        | zero => simp [h1]
        | succ i =>
          rw [show a + (i + 1) = a + 1 + i by omega]
          exact ih.1 (by rw [h2]; rfl) i (by omega)
      · cases h
    · intro h
      have h1 := h 0 (by omega)
      have h2 : (m.readSeq (a + 1) n).isSome := ih.2 fun i hi => by
        have := h (i + 1) (by omega)
        rwa [show a + (i + 1) = a + 1 + i by omega] at this
      obtain ⟨b, hb⟩ := Option.isSome_iff_exists.1 h1
      obtain ⟨bs, hbs⟩ := Option.isSome_iff_exists.1 h2
      simp at hb
      simp [hb, hbs]

/-- A loaded store reads back as what was loaded. -/
theorem Memory.read_ofBytes (bs : List Byte) (i : Nat) : (Memory.ofBytes bs).read i = bs[i]? := by
  by_cases h : i < bs.length
  · simpa [Memory.ofBytes] using Memory.read_writeSeq [] 0 bs h
  · rw [Memory.ofBytes, Memory.read_writeSeq_other _ _ _ (by omega), List.getElem?_eq_none (by omega)]
    rfl

/-- A filled store holds a value exactly below its bound. -/
theorem Memory.Filled.read_isSome {m : Memory} {n : Nat} (h : m.Filled n) (a : Nat) :
    (m.read a).isSome ↔ a < n := by
  have key : ∀ m : Memory, (m.read a).isSome ↔ a ∈ m.map Prod.fst := by
    intro m
    induction m with
    | nil => simp [Memory.read]
    | cons c m ih =>
      obtain ⟨a', b'⟩ := c
      by_cases h : a = a' <;> simp [Memory.read, h, ih]
  rw [key, h, List.mem_range]

/-- Writing past the end of a store appends. -/
theorem Memory.write_append {m : Memory} {a : Nat} (b : Byte) (h : ∀ c ∈ m, c.1 < a) :
    m.write a b = m ++ [(a, b)] := by
  induction m with
  | nil => rfl
  | cons c m ih =>
    obtain ⟨a', b'⟩ := c
    have h1 : a' < a := h (a', b') (List.mem_cons_self ..)
    rw [Memory.write, if_neg (by omega), if_neg (by omega),
      ih fun c hc => h c (List.mem_cons_of_mem _ hc)]
    rfl

/-- The addresses of a filled store are below its bound. -/
theorem Memory.Filled.addr_lt {m : Memory} {n : Nat} (h : m.Filled n) {c : Host.Cell} (hc : c ∈ m) :
    c.1 < n := by
  have : c.1 ∈ m.map Prod.fst := List.mem_map_of_mem hc
  rwa [h, List.mem_range] at this

/-- Writing the next byte of a filled store fills it one further. -/
theorem Memory.Filled.write {m : Memory} {n : Nat} (b : Byte) (h : m.Filled n) :
    (m.write n b).Filled (n + 1) := by
  rw [Memory.write_append b fun c hc => h.addr_lt hc]
  unfold Memory.Filled at h ⊢
  rw [List.map_append, h, List.range_succ]
  rfl

/-- Writing a sequence at the end of a filled store fills it by its length. -/
theorem Memory.Filled.writeSeq {m : Memory} {n : Nat} (bs : List Byte) (h : m.Filled n) :
    (m.writeSeq n bs).Filled (n + bs.length) := by
  induction bs generalizing m n with
  | nil => exact h
  | cons b bs ih =>
    have := ih (h.write b)
    rwa [Memory.writeSeq, show n + (b :: bs).length = n + 1 + bs.length by simp; omega]

/-- A filled store is canonical. -/
theorem Memory.Filled.wf {m : Memory} {n : Nat} (h : m.Filled n) : m.wf := by
  have : (m.map Prod.fst).Pairwise (· < ·) := h ▸ List.pairwise_lt_range
  exact (List.pairwise_map.1 this)

/-- An empty store is filled up to nothing. -/
theorem Memory.filled_nil : Memory.Filled [] 0 := rfl

/-- A canonical store that holds values exactly below a bound is filled up to it. -/
theorem Memory.filled_of_reads {m : Memory} {n : Nat} (hw : m.wf)
    (h : ∀ a, (m.read a).isSome ↔ a < n) : m.Filled n := by
  have key : ∀ (m : Memory) (a : Nat), (m.read a).isSome ↔ a ∈ m.map Prod.fst := by
    intro m a
    induction m with
    | nil => simp [Memory.read]
    | cons c m ih =>
      obtain ⟨a', b'⟩ := c
      by_cases h : a = a' <;> simp [Memory.read, h, ih]
  have hs : (m.map Prod.fst).Pairwise (· < ·) := List.pairwise_map.2 hw
  have hr : (List.range n).Pairwise (· < ·) := List.pairwise_lt_range
  refine List.Perm.eq_of_pairwise (le := (· < ·)) (fun a b _ _ h1 h2 => ?_) hs hr ?_
  · exact absurd (Nat.lt_trans h1 h2) (Nat.lt_irrefl _)
  · refine (List.perm_ext_iff_of_nodup ?_ List.nodup_range).2 fun a => ?_
    · exact hs.imp fun h => Nat.ne_of_lt h
    · rw [← key, h, List.mem_range]

/-! ## Sequences grown and consumed at one end -/

/-- A sequence read without its first byte. -/
theorem Memory.readSeq_tail {m : Memory} {a n : Nat} {b : Byte} {q : List Byte} (h : m.readSeq a n = some (b :: q)) :
    0 < n ∧ m.read a = some b ∧ m.readSeq (a + 1) (n - 1) = some q := by
  cases n with
  | zero => simp [Memory.readSeq] at h
  | succ n =>
    simp only [Memory.readSeq] at h
    split at h
    · rename_i h1 h2
      simp only [Option.some.injEq, List.cons.injEq] at h
      exact ⟨by omega, h.1 ▸ h1, by simpa using h.2 ▸ h2⟩
    · cases h

/-- A sequence read with one more byte at its end. -/
theorem Memory.readSeq_snoc {m : Memory} {a n : Nat} {b : Byte} {q : List Byte} (h : m.readSeq a n = some q)
    (hb : m.read (a + n) = some b) : m.readSeq a (n + 1) = some (q ++ [b]) := by
  obtain ⟨hl, hr⟩ := Memory.readSeq_eq_some.1 h
  refine Memory.readSeq_eq_some.2 ⟨by simp [hl], fun i hi => ?_⟩
  by_cases e : i = n
  · subst e; rw [hb]; simp [← hl]
  · rw [hr i (by omega), List.getElem?_append_left (by omega)]

/-- Reading elsewhere than at the address written. -/
theorem Memory.readSeq_write_other (m : Memory) {a n x : Nat} (b : Byte) (h : x < a ∨ a + n ≤ x) :
    (m.write x b).readSeq a n = m.readSeq a n := by
  induction n generalizing a with
  | zero => rfl
  | succ n ih =>
    simp only [Memory.readSeq]
    rw [Memory.read_write_other m b (by omega), ih (by omega)]

/-- A byte written just past a sequence lengthens it. -/
theorem Memory.readSeq_write_snoc {m : Memory} {a n : Nat} (b : Byte) {q : List Byte} (h : m.readSeq a n = some q) :
    (m.write (a + n) b).readSeq a (n + 1) = some (q ++ [b]) :=
  Memory.readSeq_snoc (by rw [Memory.readSeq_write_other m b (.inr (Nat.le_refl _)), h])
    (Memory.read_write_self m (a + n) b)

/-- A shorter sequence is a prefix of a longer one. -/
theorem Memory.readSeq_prefix {m : Memory} {a n k : Nat} {q : List Byte} (h : m.readSeq a n = some q) (hk : k ≤ n) :
    m.readSeq a k = some (q.take k) := by
  obtain ⟨hl, hr⟩ := Memory.readSeq_eq_some.1 h
  refine Memory.readSeq_eq_some.2 ⟨by simp [hl, hk], fun i hi => ?_⟩
  rw [hr i (by omega), List.getElem?_take_of_lt hi]

/-- Bytes leaving their live range above a sequence do not touch it. -/
theorem Memory.readSeq_truncate (m : Memory) {a n x : Nat} (h : a + n ≤ x) :
    (m.truncate x).readSeq a n = m.readSeq a n := by
  induction n generalizing a with
  | zero => rfl
  | succ n ih =>
    simp only [Memory.readSeq]
    rw [Memory.read_truncate, if_pos (by omega), ih (by omega)]

/-- A sequence written is read back. -/
theorem Memory.readSeq_writeSeq (m : Memory) (a : Nat) (bs : List Byte) :
    (m.writeSeq a bs).readSeq a bs.length = some bs :=
  Memory.readSeq_eq_some.2 ⟨rfl, fun _ hi => Memory.read_writeSeq m a bs hi⟩

end Sys2Proof.Machine
end

