-- ==== Sys2Proof/Laws/State.lean ====
section
/-! SUPPORT. What each one-field update and each control update leaves in every field, true by definition. -/

namespace Sys2Proof.Machine

@[simp] theorem Pe.goto_state (st : PeState) (p : Pe) : (p.goto st).state = st := rfl
@[simp] theorem Pe.goto_cnt (st : PeState) (p : Pe) : (p.goto st).cnt = p.cnt := rfl
@[simp] theorem Pe.goto_id (st : PeState) (p : Pe) : (p.goto st).id = p.id := rfl
@[simp] theorem Pe.goto_len (st : PeState) (p : Pe) : (p.goto st).len = p.len := rfl
@[simp] theorem Pe.goto_mode (st : PeState) (p : Pe) : (p.goto st).mode = p.mode := rfl
@[simp] theorem Pe.goto_rsv0 (st : PeState) (p : Pe) : (p.goto st).rsv0 = p.rsv0 := rfl
@[simp] theorem Pe.goto_rsv1 (st : PeState) (p : Pe) : (p.goto st).rsv1 = p.rsv1 := rfl
@[simp] theorem Pe.goto_rsv2 (st : PeState) (p : Pe) : (p.goto st).rsv2 = p.rsv2 := rfl
@[simp] theorem Pe.goto_rsv3 (st : PeState) (p : Pe) : (p.goto st).rsv3 = p.rsv3 := rfl
@[simp] theorem Pe.goto_alloc (st : PeState) (p : Pe) : (p.goto st).alloc = p.alloc := rfl
@[simp] theorem Pe.goto_buf (st : PeState) (p : Pe) : (p.goto st).buf = p.buf := rfl
@[simp] theorem Pe.goto_evt (st : PeState) (p : Pe) : (p.goto st).evt = p.evt := rfl
@[simp] theorem Pe.goto_bufRelease (st : PeState) (p : Pe) : (p.goto st).bufRelease = p.bufRelease := rfl

@[simp] theorem Pe.setCnt_state (c : Option Cnt) (p : Pe) : (p.setCnt c).state = p.state := rfl
@[simp] theorem Pe.setCnt_cnt (c : Option Cnt) (p : Pe) : (p.setCnt c).cnt = c := rfl
@[simp] theorem Pe.setCnt_id (c : Option Cnt) (p : Pe) : (p.setCnt c).id = p.id := rfl
@[simp] theorem Pe.setCnt_len (c : Option Cnt) (p : Pe) : (p.setCnt c).len = p.len := rfl
@[simp] theorem Pe.setCnt_mode (c : Option Cnt) (p : Pe) : (p.setCnt c).mode = p.mode := rfl
@[simp] theorem Pe.setCnt_rsv0 (c : Option Cnt) (p : Pe) : (p.setCnt c).rsv0 = p.rsv0 := rfl
@[simp] theorem Pe.setCnt_rsv1 (c : Option Cnt) (p : Pe) : (p.setCnt c).rsv1 = p.rsv1 := rfl
@[simp] theorem Pe.setCnt_rsv2 (c : Option Cnt) (p : Pe) : (p.setCnt c).rsv2 = p.rsv2 := rfl
@[simp] theorem Pe.setCnt_rsv3 (c : Option Cnt) (p : Pe) : (p.setCnt c).rsv3 = p.rsv3 := rfl
@[simp] theorem Pe.setCnt_alloc (c : Option Cnt) (p : Pe) : (p.setCnt c).alloc = p.alloc := rfl
@[simp] theorem Pe.setCnt_buf (c : Option Cnt) (p : Pe) : (p.setCnt c).buf = p.buf := rfl
@[simp] theorem Pe.setCnt_evt (c : Option Cnt) (p : Pe) : (p.setCnt c).evt = p.evt := rfl
@[simp] theorem Pe.setCnt_bufRelease (c : Option Cnt) (p : Pe) : (p.setCnt c).bufRelease = p.bufRelease := rfl

@[simp] theorem Pe.setAlloc_state (a : Bool) (p : Pe) : (p.setAlloc a).state = p.state := rfl
@[simp] theorem Pe.setAlloc_cnt (a : Bool) (p : Pe) : (p.setAlloc a).cnt = p.cnt := rfl
@[simp] theorem Pe.setAlloc_id (a : Bool) (p : Pe) : (p.setAlloc a).id = p.id := rfl
@[simp] theorem Pe.setAlloc_len (a : Bool) (p : Pe) : (p.setAlloc a).len = p.len := rfl
@[simp] theorem Pe.setAlloc_mode (a : Bool) (p : Pe) : (p.setAlloc a).mode = p.mode := rfl
@[simp] theorem Pe.setAlloc_rsv0 (a : Bool) (p : Pe) : (p.setAlloc a).rsv0 = p.rsv0 := rfl
@[simp] theorem Pe.setAlloc_rsv1 (a : Bool) (p : Pe) : (p.setAlloc a).rsv1 = p.rsv1 := rfl
@[simp] theorem Pe.setAlloc_rsv2 (a : Bool) (p : Pe) : (p.setAlloc a).rsv2 = p.rsv2 := rfl
@[simp] theorem Pe.setAlloc_rsv3 (a : Bool) (p : Pe) : (p.setAlloc a).rsv3 = p.rsv3 := rfl
@[simp] theorem Pe.setAlloc_alloc (a : Bool) (p : Pe) : (p.setAlloc a).alloc = a := rfl
@[simp] theorem Pe.setAlloc_buf (a : Bool) (p : Pe) : (p.setAlloc a).buf = p.buf := rfl
@[simp] theorem Pe.setAlloc_evt (a : Bool) (p : Pe) : (p.setAlloc a).evt = p.evt := rfl
@[simp] theorem Pe.setAlloc_bufRelease (a : Bool) (p : Pe) : (p.setAlloc a).bufRelease = p.bufRelease := rfl

@[simp] theorem Pe.setBuf_state (m : Memory) (p : Pe) : (p.setBuf m).state = p.state := rfl
@[simp] theorem Pe.setBuf_cnt (m : Memory) (p : Pe) : (p.setBuf m).cnt = p.cnt := rfl
@[simp] theorem Pe.setBuf_id (m : Memory) (p : Pe) : (p.setBuf m).id = p.id := rfl
@[simp] theorem Pe.setBuf_len (m : Memory) (p : Pe) : (p.setBuf m).len = p.len := rfl
@[simp] theorem Pe.setBuf_mode (m : Memory) (p : Pe) : (p.setBuf m).mode = p.mode := rfl
@[simp] theorem Pe.setBuf_rsv0 (m : Memory) (p : Pe) : (p.setBuf m).rsv0 = p.rsv0 := rfl
@[simp] theorem Pe.setBuf_rsv1 (m : Memory) (p : Pe) : (p.setBuf m).rsv1 = p.rsv1 := rfl
@[simp] theorem Pe.setBuf_rsv2 (m : Memory) (p : Pe) : (p.setBuf m).rsv2 = p.rsv2 := rfl
@[simp] theorem Pe.setBuf_rsv3 (m : Memory) (p : Pe) : (p.setBuf m).rsv3 = p.rsv3 := rfl
@[simp] theorem Pe.setBuf_alloc (m : Memory) (p : Pe) : (p.setBuf m).alloc = p.alloc := rfl
@[simp] theorem Pe.setBuf_buf (m : Memory) (p : Pe) : (p.setBuf m).buf = m := rfl
@[simp] theorem Pe.setBuf_evt (m : Memory) (p : Pe) : (p.setBuf m).evt = p.evt := rfl
@[simp] theorem Pe.setBuf_bufRelease (m : Memory) (p : Pe) : (p.setBuf m).bufRelease = p.bufRelease := rfl

@[simp] theorem Pe.setEvt_state (e : Option Status) (p : Pe) : (p.setEvt e).state = p.state := rfl
@[simp] theorem Pe.setEvt_cnt (e : Option Status) (p : Pe) : (p.setEvt e).cnt = p.cnt := rfl
@[simp] theorem Pe.setEvt_id (e : Option Status) (p : Pe) : (p.setEvt e).id = p.id := rfl
@[simp] theorem Pe.setEvt_len (e : Option Status) (p : Pe) : (p.setEvt e).len = p.len := rfl
@[simp] theorem Pe.setEvt_mode (e : Option Status) (p : Pe) : (p.setEvt e).mode = p.mode := rfl
@[simp] theorem Pe.setEvt_rsv0 (e : Option Status) (p : Pe) : (p.setEvt e).rsv0 = p.rsv0 := rfl
@[simp] theorem Pe.setEvt_rsv1 (e : Option Status) (p : Pe) : (p.setEvt e).rsv1 = p.rsv1 := rfl
@[simp] theorem Pe.setEvt_rsv2 (e : Option Status) (p : Pe) : (p.setEvt e).rsv2 = p.rsv2 := rfl
@[simp] theorem Pe.setEvt_rsv3 (e : Option Status) (p : Pe) : (p.setEvt e).rsv3 = p.rsv3 := rfl
@[simp] theorem Pe.setEvt_alloc (e : Option Status) (p : Pe) : (p.setEvt e).alloc = p.alloc := rfl
@[simp] theorem Pe.setEvt_buf (e : Option Status) (p : Pe) : (p.setEvt e).buf = p.buf := rfl
@[simp] theorem Pe.setEvt_evt (e : Option Status) (p : Pe) : (p.setEvt e).evt = e := rfl
@[simp] theorem Pe.setEvt_bufRelease (e : Option Status) (p : Pe) : (p.setEvt e).bufRelease = p.bufRelease := rfl

@[simp] theorem Pe.setBufRelease_state (r : Bool) (p : Pe) : (p.setBufRelease r).state = p.state := rfl
@[simp] theorem Pe.setBufRelease_cnt (r : Bool) (p : Pe) : (p.setBufRelease r).cnt = p.cnt := rfl
@[simp] theorem Pe.setBufRelease_id (r : Bool) (p : Pe) : (p.setBufRelease r).id = p.id := rfl
@[simp] theorem Pe.setBufRelease_len (r : Bool) (p : Pe) : (p.setBufRelease r).len = p.len := rfl
@[simp] theorem Pe.setBufRelease_mode (r : Bool) (p : Pe) : (p.setBufRelease r).mode = p.mode := rfl
@[simp] theorem Pe.setBufRelease_rsv0 (r : Bool) (p : Pe) : (p.setBufRelease r).rsv0 = p.rsv0 := rfl
@[simp] theorem Pe.setBufRelease_rsv1 (r : Bool) (p : Pe) : (p.setBufRelease r).rsv1 = p.rsv1 := rfl
@[simp] theorem Pe.setBufRelease_rsv2 (r : Bool) (p : Pe) : (p.setBufRelease r).rsv2 = p.rsv2 := rfl
@[simp] theorem Pe.setBufRelease_rsv3 (r : Bool) (p : Pe) : (p.setBufRelease r).rsv3 = p.rsv3 := rfl
@[simp] theorem Pe.setBufRelease_alloc (r : Bool) (p : Pe) : (p.setBufRelease r).alloc = p.alloc := rfl
@[simp] theorem Pe.setBufRelease_buf (r : Bool) (p : Pe) : (p.setBufRelease r).buf = p.buf := rfl
@[simp] theorem Pe.setBufRelease_evt (r : Bool) (p : Pe) : (p.setBufRelease r).evt = p.evt := rfl
@[simp] theorem Pe.setBufRelease_bufRelease (r : Bool) (p : Pe) : (p.setBufRelease r).bufRelease = r := rfl

@[simp] theorem Hd.goto_state (st : HdState) (h : Hd) : (h.goto st).state = st := rfl
@[simp] theorem Hd.goto_cnt (st : HdState) (h : Hd) : (h.goto st).cnt = h.cnt := rfl
@[simp] theorem Hd.goto_lastAck (st : HdState) (h : Hd) : (h.goto st).lastAck = h.lastAck := rfl
@[simp] theorem Hd.goto_hfs (st : HdState) (h : Hd) : (h.goto st).hfs = h.hfs := rfl
@[simp] theorem Hd.goto_hrx (st : HdState) (h : Hd) : (h.goto st).hrx = h.hrx := rfl
@[simp] theorem Hd.goto_rpt (st : HdState) (h : Hd) : (h.goto st).rpt = h.rpt := rfl

@[simp] theorem Hd.setCnt_state (c : Option Cnt) (h : Hd) : (h.setCnt c).state = h.state := rfl
@[simp] theorem Hd.setCnt_cnt (c : Option Cnt) (h : Hd) : (h.setCnt c).cnt = c := rfl
@[simp] theorem Hd.setCnt_lastAck (c : Option Cnt) (h : Hd) : (h.setCnt c).lastAck = h.lastAck := rfl
@[simp] theorem Hd.setCnt_hfs (c : Option Cnt) (h : Hd) : (h.setCnt c).hfs = h.hfs := rfl
@[simp] theorem Hd.setCnt_hrx (c : Option Cnt) (h : Hd) : (h.setCnt c).hrx = h.hrx := rfl
@[simp] theorem Hd.setCnt_rpt (c : Option Cnt) (h : Hd) : (h.setCnt c).rpt = h.rpt := rfl

@[simp] theorem Hd.setLastAck_state (b : Option Byte) (h : Hd) : (h.setLastAck b).state = h.state := rfl
@[simp] theorem Hd.setLastAck_cnt (b : Option Byte) (h : Hd) : (h.setLastAck b).cnt = h.cnt := rfl
@[simp] theorem Hd.setLastAck_lastAck (b : Option Byte) (h : Hd) : (h.setLastAck b).lastAck = b := rfl
@[simp] theorem Hd.setLastAck_hfs (b : Option Byte) (h : Hd) : (h.setLastAck b).hfs = h.hfs := rfl
@[simp] theorem Hd.setLastAck_hrx (b : Option Byte) (h : Hd) : (h.setLastAck b).hrx = h.hrx := rfl
@[simp] theorem Hd.setLastAck_rpt (b : Option Byte) (h : Hd) : (h.setLastAck b).rpt = h.rpt := rfl

@[simp] theorem Hd.setHfs_state (m : Memory) (h : Hd) : (h.setHfs m).state = h.state := rfl
@[simp] theorem Hd.setHfs_cnt (m : Memory) (h : Hd) : (h.setHfs m).cnt = h.cnt := rfl
@[simp] theorem Hd.setHfs_lastAck (m : Memory) (h : Hd) : (h.setHfs m).lastAck = h.lastAck := rfl
@[simp] theorem Hd.setHfs_hfs (m : Memory) (h : Hd) : (h.setHfs m).hfs = m := rfl
@[simp] theorem Hd.setHfs_hrx (m : Memory) (h : Hd) : (h.setHfs m).hrx = h.hrx := rfl
@[simp] theorem Hd.setHfs_rpt (m : Memory) (h : Hd) : (h.setHfs m).rpt = h.rpt := rfl

@[simp] theorem Hd.setHrx_state (m : Memory) (h : Hd) : (h.setHrx m).state = h.state := rfl
@[simp] theorem Hd.setHrx_cnt (m : Memory) (h : Hd) : (h.setHrx m).cnt = h.cnt := rfl
@[simp] theorem Hd.setHrx_lastAck (m : Memory) (h : Hd) : (h.setHrx m).lastAck = h.lastAck := rfl
@[simp] theorem Hd.setHrx_hfs (m : Memory) (h : Hd) : (h.setHrx m).hfs = h.hfs := rfl
@[simp] theorem Hd.setHrx_hrx (m : Memory) (h : Hd) : (h.setHrx m).hrx = m := rfl
@[simp] theorem Hd.setHrx_rpt (m : Memory) (h : Hd) : (h.setHrx m).rpt = h.rpt := rfl

@[simp] theorem Hd.setRpt_state (r : Option Report) (h : Hd) : (h.setRpt r).state = h.state := rfl
@[simp] theorem Hd.setRpt_cnt (r : Option Report) (h : Hd) : (h.setRpt r).cnt = h.cnt := rfl
@[simp] theorem Hd.setRpt_lastAck (r : Option Report) (h : Hd) : (h.setRpt r).lastAck = h.lastAck := rfl
@[simp] theorem Hd.setRpt_hfs (r : Option Report) (h : Hd) : (h.setRpt r).hfs = h.hfs := rfl
@[simp] theorem Hd.setRpt_hrx (r : Option Report) (h : Hd) : (h.setRpt r).hrx = h.hrx := rfl
@[simp] theorem Hd.setRpt_rpt (r : Option Report) (h : Hd) : (h.setRpt r).rpt = r := rfl

@[simp] theorem State.setPe_params (p : Pe) (s : State) : (s.setPe p).params = s.params := rfl
@[simp] theorem State.setPe_pe (p : Pe) (s : State) : (s.setPe p).pe = p := rfl
@[simp] theorem State.setPe_hd (p : Pe) (s : State) : (s.setPe p).hd = s.hd := rfl
@[simp] theorem State.setPe_h2p (p : Pe) (s : State) : (s.setPe p).h2p = s.h2p := rfl
@[simp] theorem State.setPe_p2h (p : Pe) (s : State) : (s.setPe p).p2h = s.p2h := rfl
@[simp] theorem State.setPe_allocQ (p : Pe) (s : State) : (s.setPe p).allocQ = s.allocQ := rfl
@[simp] theorem State.setPe_adcQ (p : Pe) (s : State) : (s.setPe p).adcQ = s.adcQ := rfl
@[simp] theorem State.setPe_devwQ (p : Pe) (s : State) : (s.setPe p).devwQ = s.devwQ := rfl
@[simp] theorem State.setPe_opStart (p : Pe) (s : State) : (s.setPe p).opStart = s.opStart := rfl
@[simp] theorem State.setPe_opRetry (p : Pe) (s : State) : (s.setPe p).opRetry = s.opRetry := rfl
@[simp] theorem State.setPe_script (p : Pe) (s : State) : (s.setPe p).script = s.script := rfl
@[simp] theorem State.setPe_turn (p : Pe) (s : State) : (s.setPe p).turn = s.turn := rfl
@[simp] theorem State.setPe_trace (p : Pe) (s : State) : (s.setPe p).trace = s.trace := rfl

@[simp] theorem State.setHd_params (h : Hd) (s : State) : (s.setHd h).params = s.params := rfl
@[simp] theorem State.setHd_pe (h : Hd) (s : State) : (s.setHd h).pe = s.pe := rfl
@[simp] theorem State.setHd_hd (h : Hd) (s : State) : (s.setHd h).hd = h := rfl
@[simp] theorem State.setHd_h2p (h : Hd) (s : State) : (s.setHd h).h2p = s.h2p := rfl
@[simp] theorem State.setHd_p2h (h : Hd) (s : State) : (s.setHd h).p2h = s.p2h := rfl
@[simp] theorem State.setHd_allocQ (h : Hd) (s : State) : (s.setHd h).allocQ = s.allocQ := rfl
@[simp] theorem State.setHd_adcQ (h : Hd) (s : State) : (s.setHd h).adcQ = s.adcQ := rfl
@[simp] theorem State.setHd_devwQ (h : Hd) (s : State) : (s.setHd h).devwQ = s.devwQ := rfl
@[simp] theorem State.setHd_opStart (h : Hd) (s : State) : (s.setHd h).opStart = s.opStart := rfl
@[simp] theorem State.setHd_opRetry (h : Hd) (s : State) : (s.setHd h).opRetry = s.opRetry := rfl
@[simp] theorem State.setHd_script (h : Hd) (s : State) : (s.setHd h).script = s.script := rfl
@[simp] theorem State.setHd_turn (h : Hd) (s : State) : (s.setHd h).turn = s.turn := rfl
@[simp] theorem State.setHd_trace (h : Hd) (s : State) : (s.setHd h).trace = s.trace := rfl

@[simp] theorem State.setH2p_params (q : List Byte) (s : State) : (s.setH2p q).params = s.params := rfl
@[simp] theorem State.setH2p_pe (q : List Byte) (s : State) : (s.setH2p q).pe = s.pe := rfl
@[simp] theorem State.setH2p_hd (q : List Byte) (s : State) : (s.setH2p q).hd = s.hd := rfl
@[simp] theorem State.setH2p_h2p (q : List Byte) (s : State) : (s.setH2p q).h2p = q := rfl
@[simp] theorem State.setH2p_p2h (q : List Byte) (s : State) : (s.setH2p q).p2h = s.p2h := rfl
@[simp] theorem State.setH2p_allocQ (q : List Byte) (s : State) : (s.setH2p q).allocQ = s.allocQ := rfl
@[simp] theorem State.setH2p_adcQ (q : List Byte) (s : State) : (s.setH2p q).adcQ = s.adcQ := rfl
@[simp] theorem State.setH2p_devwQ (q : List Byte) (s : State) : (s.setH2p q).devwQ = s.devwQ := rfl
@[simp] theorem State.setH2p_opStart (q : List Byte) (s : State) : (s.setH2p q).opStart = s.opStart := rfl
@[simp] theorem State.setH2p_opRetry (q : List Byte) (s : State) : (s.setH2p q).opRetry = s.opRetry := rfl
@[simp] theorem State.setH2p_script (q : List Byte) (s : State) : (s.setH2p q).script = s.script := rfl
@[simp] theorem State.setH2p_turn (q : List Byte) (s : State) : (s.setH2p q).turn = s.turn := rfl
@[simp] theorem State.setH2p_trace (q : List Byte) (s : State) : (s.setH2p q).trace = s.trace := rfl

@[simp] theorem State.setP2h_params (q : List Byte) (s : State) : (s.setP2h q).params = s.params := rfl
@[simp] theorem State.setP2h_pe (q : List Byte) (s : State) : (s.setP2h q).pe = s.pe := rfl
@[simp] theorem State.setP2h_hd (q : List Byte) (s : State) : (s.setP2h q).hd = s.hd := rfl
@[simp] theorem State.setP2h_h2p (q : List Byte) (s : State) : (s.setP2h q).h2p = s.h2p := rfl
@[simp] theorem State.setP2h_p2h (q : List Byte) (s : State) : (s.setP2h q).p2h = q := rfl
@[simp] theorem State.setP2h_allocQ (q : List Byte) (s : State) : (s.setP2h q).allocQ = s.allocQ := rfl
@[simp] theorem State.setP2h_adcQ (q : List Byte) (s : State) : (s.setP2h q).adcQ = s.adcQ := rfl
@[simp] theorem State.setP2h_devwQ (q : List Byte) (s : State) : (s.setP2h q).devwQ = s.devwQ := rfl
@[simp] theorem State.setP2h_opStart (q : List Byte) (s : State) : (s.setP2h q).opStart = s.opStart := rfl
@[simp] theorem State.setP2h_opRetry (q : List Byte) (s : State) : (s.setP2h q).opRetry = s.opRetry := rfl
@[simp] theorem State.setP2h_script (q : List Byte) (s : State) : (s.setP2h q).script = s.script := rfl
@[simp] theorem State.setP2h_turn (q : List Byte) (s : State) : (s.setP2h q).turn = s.turn := rfl
@[simp] theorem State.setP2h_trace (q : List Byte) (s : State) : (s.setP2h q).trace = s.trace := rfl

@[simp] theorem State.setAllocQ_params (q : List Bool) (s : State) : (s.setAllocQ q).params = s.params := rfl
@[simp] theorem State.setAllocQ_pe (q : List Bool) (s : State) : (s.setAllocQ q).pe = s.pe := rfl
@[simp] theorem State.setAllocQ_hd (q : List Bool) (s : State) : (s.setAllocQ q).hd = s.hd := rfl
@[simp] theorem State.setAllocQ_h2p (q : List Bool) (s : State) : (s.setAllocQ q).h2p = s.h2p := rfl
@[simp] theorem State.setAllocQ_p2h (q : List Bool) (s : State) : (s.setAllocQ q).p2h = s.p2h := rfl
@[simp] theorem State.setAllocQ_allocQ (q : List Bool) (s : State) : (s.setAllocQ q).allocQ = q := rfl
@[simp] theorem State.setAllocQ_adcQ (q : List Bool) (s : State) : (s.setAllocQ q).adcQ = s.adcQ := rfl
@[simp] theorem State.setAllocQ_devwQ (q : List Bool) (s : State) : (s.setAllocQ q).devwQ = s.devwQ := rfl
@[simp] theorem State.setAllocQ_opStart (q : List Bool) (s : State) : (s.setAllocQ q).opStart = s.opStart := rfl
@[simp] theorem State.setAllocQ_opRetry (q : List Bool) (s : State) : (s.setAllocQ q).opRetry = s.opRetry := rfl
@[simp] theorem State.setAllocQ_script (q : List Bool) (s : State) : (s.setAllocQ q).script = s.script := rfl
@[simp] theorem State.setAllocQ_turn (q : List Bool) (s : State) : (s.setAllocQ q).turn = s.turn := rfl
@[simp] theorem State.setAllocQ_trace (q : List Bool) (s : State) : (s.setAllocQ q).trace = s.trace := rfl

@[simp] theorem State.setAdcQ_params (q : List Byte) (s : State) : (s.setAdcQ q).params = s.params := rfl
@[simp] theorem State.setAdcQ_pe (q : List Byte) (s : State) : (s.setAdcQ q).pe = s.pe := rfl
@[simp] theorem State.setAdcQ_hd (q : List Byte) (s : State) : (s.setAdcQ q).hd = s.hd := rfl
@[simp] theorem State.setAdcQ_h2p (q : List Byte) (s : State) : (s.setAdcQ q).h2p = s.h2p := rfl
@[simp] theorem State.setAdcQ_p2h (q : List Byte) (s : State) : (s.setAdcQ q).p2h = s.p2h := rfl
@[simp] theorem State.setAdcQ_allocQ (q : List Byte) (s : State) : (s.setAdcQ q).allocQ = s.allocQ := rfl
@[simp] theorem State.setAdcQ_adcQ (q : List Byte) (s : State) : (s.setAdcQ q).adcQ = q := rfl
@[simp] theorem State.setAdcQ_devwQ (q : List Byte) (s : State) : (s.setAdcQ q).devwQ = s.devwQ := rfl
@[simp] theorem State.setAdcQ_opStart (q : List Byte) (s : State) : (s.setAdcQ q).opStart = s.opStart := rfl
@[simp] theorem State.setAdcQ_opRetry (q : List Byte) (s : State) : (s.setAdcQ q).opRetry = s.opRetry := rfl
@[simp] theorem State.setAdcQ_script (q : List Byte) (s : State) : (s.setAdcQ q).script = s.script := rfl
@[simp] theorem State.setAdcQ_turn (q : List Byte) (s : State) : (s.setAdcQ q).turn = s.turn := rfl
@[simp] theorem State.setAdcQ_trace (q : List Byte) (s : State) : (s.setAdcQ q).trace = s.trace := rfl

@[simp] theorem State.setDevwQ_params (n : Nat) (s : State) : (s.setDevwQ n).params = s.params := rfl
@[simp] theorem State.setDevwQ_pe (n : Nat) (s : State) : (s.setDevwQ n).pe = s.pe := rfl
@[simp] theorem State.setDevwQ_hd (n : Nat) (s : State) : (s.setDevwQ n).hd = s.hd := rfl
@[simp] theorem State.setDevwQ_h2p (n : Nat) (s : State) : (s.setDevwQ n).h2p = s.h2p := rfl
@[simp] theorem State.setDevwQ_p2h (n : Nat) (s : State) : (s.setDevwQ n).p2h = s.p2h := rfl
@[simp] theorem State.setDevwQ_allocQ (n : Nat) (s : State) : (s.setDevwQ n).allocQ = s.allocQ := rfl
@[simp] theorem State.setDevwQ_adcQ (n : Nat) (s : State) : (s.setDevwQ n).adcQ = s.adcQ := rfl
@[simp] theorem State.setDevwQ_devwQ (n : Nat) (s : State) : (s.setDevwQ n).devwQ = n := rfl
@[simp] theorem State.setDevwQ_opStart (n : Nat) (s : State) : (s.setDevwQ n).opStart = s.opStart := rfl
@[simp] theorem State.setDevwQ_opRetry (n : Nat) (s : State) : (s.setDevwQ n).opRetry = s.opRetry := rfl
@[simp] theorem State.setDevwQ_script (n : Nat) (s : State) : (s.setDevwQ n).script = s.script := rfl
@[simp] theorem State.setDevwQ_turn (n : Nat) (s : State) : (s.setDevwQ n).turn = s.turn := rfl
@[simp] theorem State.setDevwQ_trace (n : Nat) (s : State) : (s.setDevwQ n).trace = s.trace := rfl

@[simp] theorem State.setOpStart_params (b : Bool) (s : State) : (s.setOpStart b).params = s.params := rfl
@[simp] theorem State.setOpStart_pe (b : Bool) (s : State) : (s.setOpStart b).pe = s.pe := rfl
@[simp] theorem State.setOpStart_hd (b : Bool) (s : State) : (s.setOpStart b).hd = s.hd := rfl
@[simp] theorem State.setOpStart_h2p (b : Bool) (s : State) : (s.setOpStart b).h2p = s.h2p := rfl
@[simp] theorem State.setOpStart_p2h (b : Bool) (s : State) : (s.setOpStart b).p2h = s.p2h := rfl
@[simp] theorem State.setOpStart_allocQ (b : Bool) (s : State) : (s.setOpStart b).allocQ = s.allocQ := rfl
@[simp] theorem State.setOpStart_adcQ (b : Bool) (s : State) : (s.setOpStart b).adcQ = s.adcQ := rfl
@[simp] theorem State.setOpStart_devwQ (b : Bool) (s : State) : (s.setOpStart b).devwQ = s.devwQ := rfl
@[simp] theorem State.setOpStart_opStart (b : Bool) (s : State) : (s.setOpStart b).opStart = b := rfl
@[simp] theorem State.setOpStart_opRetry (b : Bool) (s : State) : (s.setOpStart b).opRetry = s.opRetry := rfl
@[simp] theorem State.setOpStart_script (b : Bool) (s : State) : (s.setOpStart b).script = s.script := rfl
@[simp] theorem State.setOpStart_turn (b : Bool) (s : State) : (s.setOpStart b).turn = s.turn := rfl
@[simp] theorem State.setOpStart_trace (b : Bool) (s : State) : (s.setOpStart b).trace = s.trace := rfl

@[simp] theorem State.setOpRetry_params (b : Bool) (s : State) : (s.setOpRetry b).params = s.params := rfl
@[simp] theorem State.setOpRetry_pe (b : Bool) (s : State) : (s.setOpRetry b).pe = s.pe := rfl
@[simp] theorem State.setOpRetry_hd (b : Bool) (s : State) : (s.setOpRetry b).hd = s.hd := rfl
@[simp] theorem State.setOpRetry_h2p (b : Bool) (s : State) : (s.setOpRetry b).h2p = s.h2p := rfl
@[simp] theorem State.setOpRetry_p2h (b : Bool) (s : State) : (s.setOpRetry b).p2h = s.p2h := rfl
@[simp] theorem State.setOpRetry_allocQ (b : Bool) (s : State) : (s.setOpRetry b).allocQ = s.allocQ := rfl
@[simp] theorem State.setOpRetry_adcQ (b : Bool) (s : State) : (s.setOpRetry b).adcQ = s.adcQ := rfl
@[simp] theorem State.setOpRetry_devwQ (b : Bool) (s : State) : (s.setOpRetry b).devwQ = s.devwQ := rfl
@[simp] theorem State.setOpRetry_opStart (b : Bool) (s : State) : (s.setOpRetry b).opStart = s.opStart := rfl
@[simp] theorem State.setOpRetry_opRetry (b : Bool) (s : State) : (s.setOpRetry b).opRetry = b := rfl
@[simp] theorem State.setOpRetry_script (b : Bool) (s : State) : (s.setOpRetry b).script = s.script := rfl
@[simp] theorem State.setOpRetry_turn (b : Bool) (s : State) : (s.setOpRetry b).turn = s.turn := rfl
@[simp] theorem State.setOpRetry_trace (b : Bool) (s : State) : (s.setOpRetry b).trace = s.trace := rfl

@[simp] theorem State.setScript_params (ms : List Move) (s : State) : (s.setScript ms).params = s.params := rfl
@[simp] theorem State.setScript_pe (ms : List Move) (s : State) : (s.setScript ms).pe = s.pe := rfl
@[simp] theorem State.setScript_hd (ms : List Move) (s : State) : (s.setScript ms).hd = s.hd := rfl
@[simp] theorem State.setScript_h2p (ms : List Move) (s : State) : (s.setScript ms).h2p = s.h2p := rfl
@[simp] theorem State.setScript_p2h (ms : List Move) (s : State) : (s.setScript ms).p2h = s.p2h := rfl
@[simp] theorem State.setScript_allocQ (ms : List Move) (s : State) : (s.setScript ms).allocQ = s.allocQ := rfl
@[simp] theorem State.setScript_adcQ (ms : List Move) (s : State) : (s.setScript ms).adcQ = s.adcQ := rfl
@[simp] theorem State.setScript_devwQ (ms : List Move) (s : State) : (s.setScript ms).devwQ = s.devwQ := rfl
@[simp] theorem State.setScript_opStart (ms : List Move) (s : State) : (s.setScript ms).opStart = s.opStart := rfl
@[simp] theorem State.setScript_opRetry (ms : List Move) (s : State) : (s.setScript ms).opRetry = s.opRetry := rfl
@[simp] theorem State.setScript_script (ms : List Move) (s : State) : (s.setScript ms).script = ms := rfl
@[simp] theorem State.setScript_turn (ms : List Move) (s : State) : (s.setScript ms).turn = s.turn := rfl
@[simp] theorem State.setScript_trace (ms : List Move) (s : State) : (s.setScript ms).trace = s.trace := rfl

@[simp] theorem State.setTurn_params (a : Agent) (s : State) : (s.setTurn a).params = s.params := rfl
@[simp] theorem State.setTurn_pe (a : Agent) (s : State) : (s.setTurn a).pe = s.pe := rfl
@[simp] theorem State.setTurn_hd (a : Agent) (s : State) : (s.setTurn a).hd = s.hd := rfl
@[simp] theorem State.setTurn_h2p (a : Agent) (s : State) : (s.setTurn a).h2p = s.h2p := rfl
@[simp] theorem State.setTurn_p2h (a : Agent) (s : State) : (s.setTurn a).p2h = s.p2h := rfl
@[simp] theorem State.setTurn_allocQ (a : Agent) (s : State) : (s.setTurn a).allocQ = s.allocQ := rfl
@[simp] theorem State.setTurn_adcQ (a : Agent) (s : State) : (s.setTurn a).adcQ = s.adcQ := rfl
@[simp] theorem State.setTurn_devwQ (a : Agent) (s : State) : (s.setTurn a).devwQ = s.devwQ := rfl
@[simp] theorem State.setTurn_opStart (a : Agent) (s : State) : (s.setTurn a).opStart = s.opStart := rfl
@[simp] theorem State.setTurn_opRetry (a : Agent) (s : State) : (s.setTurn a).opRetry = s.opRetry := rfl
@[simp] theorem State.setTurn_script (a : Agent) (s : State) : (s.setTurn a).script = s.script := rfl
@[simp] theorem State.setTurn_turn (a : Agent) (s : State) : (s.setTurn a).turn = a := rfl
@[simp] theorem State.setTurn_trace (a : Agent) (s : State) : (s.setTurn a).trace = s.trace := rfl

@[simp] theorem State.log_params (a : Agent) (e : Event) (s : State) : (s.log a e).params = s.params := rfl
@[simp] theorem State.log_pe (a : Agent) (e : Event) (s : State) : (s.log a e).pe = s.pe := rfl
@[simp] theorem State.log_hd (a : Agent) (e : Event) (s : State) : (s.log a e).hd = s.hd := rfl
@[simp] theorem State.log_h2p (a : Agent) (e : Event) (s : State) : (s.log a e).h2p = s.h2p := rfl
@[simp] theorem State.log_p2h (a : Agent) (e : Event) (s : State) : (s.log a e).p2h = s.p2h := rfl
@[simp] theorem State.log_allocQ (a : Agent) (e : Event) (s : State) : (s.log a e).allocQ = s.allocQ := rfl
@[simp] theorem State.log_adcQ (a : Agent) (e : Event) (s : State) : (s.log a e).adcQ = s.adcQ := rfl
@[simp] theorem State.log_devwQ (a : Agent) (e : Event) (s : State) : (s.log a e).devwQ = s.devwQ := rfl
@[simp] theorem State.log_opStart (a : Agent) (e : Event) (s : State) : (s.log a e).opStart = s.opStart := rfl
@[simp] theorem State.log_opRetry (a : Agent) (e : Event) (s : State) : (s.log a e).opRetry = s.opRetry := rfl
@[simp] theorem State.log_script (a : Agent) (e : Event) (s : State) : (s.log a e).script = s.script := rfl
@[simp] theorem State.log_turn (a : Agent) (e : Event) (s : State) : (s.log a e).turn = s.turn := rfl
@[simp] theorem State.log_trace (a : Agent) (e : Event) (s : State) : (s.log a e).trace = s.trace ++ [(a, e)] := rfl

@[simp] theorem State.peGoto_params (st : PeState) (s : State) : (s.peGoto st).params = s.params := rfl
@[simp] theorem State.peGoto_pe (st : PeState) (s : State) : (s.peGoto st).pe = (s.pe.setCnt none).goto st := rfl
@[simp] theorem State.peGoto_hd (st : PeState) (s : State) : (s.peGoto st).hd = s.hd := rfl
@[simp] theorem State.peGoto_h2p (st : PeState) (s : State) : (s.peGoto st).h2p = s.h2p := rfl
@[simp] theorem State.peGoto_p2h (st : PeState) (s : State) : (s.peGoto st).p2h = s.p2h := rfl
@[simp] theorem State.peGoto_allocQ (st : PeState) (s : State) : (s.peGoto st).allocQ = s.allocQ := rfl
@[simp] theorem State.peGoto_adcQ (st : PeState) (s : State) : (s.peGoto st).adcQ = s.adcQ := rfl
@[simp] theorem State.peGoto_devwQ (st : PeState) (s : State) : (s.peGoto st).devwQ = s.devwQ := rfl
@[simp] theorem State.peGoto_opStart (st : PeState) (s : State) : (s.peGoto st).opStart = s.opStart := rfl
@[simp] theorem State.peGoto_opRetry (st : PeState) (s : State) : (s.peGoto st).opRetry = s.opRetry := rfl
@[simp] theorem State.peGoto_script (st : PeState) (s : State) : (s.peGoto st).script = s.script := rfl
@[simp] theorem State.peGoto_turn (st : PeState) (s : State) : (s.peGoto st).turn = s.turn := rfl
@[simp] theorem State.peGoto_trace (st : PeState) (s : State) : (s.peGoto st).trace = s.trace := rfl

@[simp] theorem State.peCount_params (st : PeState) (c : Cnt) (s : State) : (s.peCount st c).params = s.params := rfl
@[simp] theorem State.peCount_pe (st : PeState) (c : Cnt) (s : State) : (s.peCount st c).pe = (s.pe.setCnt (some c)).goto st := rfl
@[simp] theorem State.peCount_hd (st : PeState) (c : Cnt) (s : State) : (s.peCount st c).hd = s.hd := rfl
@[simp] theorem State.peCount_h2p (st : PeState) (c : Cnt) (s : State) : (s.peCount st c).h2p = s.h2p := rfl
@[simp] theorem State.peCount_p2h (st : PeState) (c : Cnt) (s : State) : (s.peCount st c).p2h = s.p2h := rfl
@[simp] theorem State.peCount_allocQ (st : PeState) (c : Cnt) (s : State) : (s.peCount st c).allocQ = s.allocQ := rfl
@[simp] theorem State.peCount_adcQ (st : PeState) (c : Cnt) (s : State) : (s.peCount st c).adcQ = s.adcQ := rfl
@[simp] theorem State.peCount_devwQ (st : PeState) (c : Cnt) (s : State) : (s.peCount st c).devwQ = s.devwQ := rfl
@[simp] theorem State.peCount_opStart (st : PeState) (c : Cnt) (s : State) : (s.peCount st c).opStart = s.opStart := rfl
@[simp] theorem State.peCount_opRetry (st : PeState) (c : Cnt) (s : State) : (s.peCount st c).opRetry = s.opRetry := rfl
@[simp] theorem State.peCount_script (st : PeState) (c : Cnt) (s : State) : (s.peCount st c).script = s.script := rfl
@[simp] theorem State.peCount_turn (st : PeState) (c : Cnt) (s : State) : (s.peCount st c).turn = s.turn := rfl
@[simp] theorem State.peCount_trace (st : PeState) (c : Cnt) (s : State) : (s.peCount st c).trace = s.trace := rfl

@[simp] theorem State.hdGoto_params (st : HdState) (s : State) : (s.hdGoto st).params = s.params := rfl
@[simp] theorem State.hdGoto_pe (st : HdState) (s : State) : (s.hdGoto st).pe = s.pe := rfl
@[simp] theorem State.hdGoto_hd (st : HdState) (s : State) : (s.hdGoto st).hd = (s.hd.setCnt none).goto st := rfl
@[simp] theorem State.hdGoto_h2p (st : HdState) (s : State) : (s.hdGoto st).h2p = s.h2p := rfl
@[simp] theorem State.hdGoto_p2h (st : HdState) (s : State) : (s.hdGoto st).p2h = s.p2h := rfl
@[simp] theorem State.hdGoto_allocQ (st : HdState) (s : State) : (s.hdGoto st).allocQ = s.allocQ := rfl
@[simp] theorem State.hdGoto_adcQ (st : HdState) (s : State) : (s.hdGoto st).adcQ = s.adcQ := rfl
@[simp] theorem State.hdGoto_devwQ (st : HdState) (s : State) : (s.hdGoto st).devwQ = s.devwQ := rfl
@[simp] theorem State.hdGoto_opStart (st : HdState) (s : State) : (s.hdGoto st).opStart = s.opStart := rfl
@[simp] theorem State.hdGoto_opRetry (st : HdState) (s : State) : (s.hdGoto st).opRetry = s.opRetry := rfl
@[simp] theorem State.hdGoto_script (st : HdState) (s : State) : (s.hdGoto st).script = s.script := rfl
@[simp] theorem State.hdGoto_turn (st : HdState) (s : State) : (s.hdGoto st).turn = s.turn := rfl
@[simp] theorem State.hdGoto_trace (st : HdState) (s : State) : (s.hdGoto st).trace = s.trace := rfl

@[simp] theorem State.hdCount_params (st : HdState) (c : Cnt) (s : State) : (s.hdCount st c).params = s.params := rfl
@[simp] theorem State.hdCount_pe (st : HdState) (c : Cnt) (s : State) : (s.hdCount st c).pe = s.pe := rfl
@[simp] theorem State.hdCount_hd (st : HdState) (c : Cnt) (s : State) : (s.hdCount st c).hd = (s.hd.setCnt (some c)).goto st := rfl
@[simp] theorem State.hdCount_h2p (st : HdState) (c : Cnt) (s : State) : (s.hdCount st c).h2p = s.h2p := rfl
@[simp] theorem State.hdCount_p2h (st : HdState) (c : Cnt) (s : State) : (s.hdCount st c).p2h = s.p2h := rfl
@[simp] theorem State.hdCount_allocQ (st : HdState) (c : Cnt) (s : State) : (s.hdCount st c).allocQ = s.allocQ := rfl
@[simp] theorem State.hdCount_adcQ (st : HdState) (c : Cnt) (s : State) : (s.hdCount st c).adcQ = s.adcQ := rfl
@[simp] theorem State.hdCount_devwQ (st : HdState) (c : Cnt) (s : State) : (s.hdCount st c).devwQ = s.devwQ := rfl
@[simp] theorem State.hdCount_opStart (st : HdState) (c : Cnt) (s : State) : (s.hdCount st c).opStart = s.opStart := rfl
@[simp] theorem State.hdCount_opRetry (st : HdState) (c : Cnt) (s : State) : (s.hdCount st c).opRetry = s.opRetry := rfl
@[simp] theorem State.hdCount_script (st : HdState) (c : Cnt) (s : State) : (s.hdCount st c).script = s.script := rfl
@[simp] theorem State.hdCount_turn (st : HdState) (c : Cnt) (s : State) : (s.hdCount st c).turn = s.turn := rfl
@[simp] theorem State.hdCount_trace (st : HdState) (c : Cnt) (s : State) : (s.hdCount st c).trace = s.trace := rfl

@[simp] theorem State.peWaitStart_params (s : State) : (s.peWaitStart).params = s.params := rfl
@[simp] theorem State.peWaitStart_pe (s : State) : (s.peWaitStart).pe = { s.pe with
      state := .waitStart, cnt := none, id := none, len := none, mode := none,
      rsv0 := none, rsv1 := none, rsv2 := none, rsv3 := none } := rfl
@[simp] theorem State.peWaitStart_hd (s : State) : (s.peWaitStart).hd = s.hd := rfl
@[simp] theorem State.peWaitStart_h2p (s : State) : (s.peWaitStart).h2p = s.h2p := rfl
@[simp] theorem State.peWaitStart_p2h (s : State) : (s.peWaitStart).p2h = s.p2h := rfl
@[simp] theorem State.peWaitStart_allocQ (s : State) : (s.peWaitStart).allocQ = s.allocQ := rfl
@[simp] theorem State.peWaitStart_adcQ (s : State) : (s.peWaitStart).adcQ = s.adcQ := rfl
@[simp] theorem State.peWaitStart_devwQ (s : State) : (s.peWaitStart).devwQ = s.devwQ := rfl
@[simp] theorem State.peWaitStart_opStart (s : State) : (s.peWaitStart).opStart = s.opStart := rfl
@[simp] theorem State.peWaitStart_opRetry (s : State) : (s.peWaitStart).opRetry = s.opRetry := rfl
@[simp] theorem State.peWaitStart_script (s : State) : (s.peWaitStart).script = s.script := rfl
@[simp] theorem State.peWaitStart_turn (s : State) : (s.peWaitStart).turn = s.turn := rfl
@[simp] theorem State.peWaitStart_trace (s : State) : (s.peWaitStart).trace = s.trace := rfl

@[simp] theorem State.release_params (s : State) : (s.release).params = s.params := rfl
@[simp] theorem State.release_pe (s : State) : (s.release).pe = ((s.pe.setBuf []).setAlloc false).setBufRelease true := rfl
@[simp] theorem State.release_hd (s : State) : (s.release).hd = s.hd := rfl
@[simp] theorem State.release_h2p (s : State) : (s.release).h2p = s.h2p := rfl
@[simp] theorem State.release_p2h (s : State) : (s.release).p2h = s.p2h := rfl
@[simp] theorem State.release_allocQ (s : State) : (s.release).allocQ = s.allocQ := rfl
@[simp] theorem State.release_adcQ (s : State) : (s.release).adcQ = s.adcQ := rfl
@[simp] theorem State.release_devwQ (s : State) : (s.release).devwQ = s.devwQ := rfl
@[simp] theorem State.release_opStart (s : State) : (s.release).opStart = s.opStart := rfl
@[simp] theorem State.release_opRetry (s : State) : (s.release).opRetry = s.opRetry := rfl
@[simp] theorem State.release_script (s : State) : (s.release).script = s.script := rfl
@[simp] theorem State.release_turn (s : State) : (s.release).turn = s.turn := rfl
@[simp] theorem State.release_trace (s : State) : (s.release).trace = s.trace ++ [(.pe, .release)] := rfl

@[simp] theorem State.raise_params (c : Cause) (info : Byte) (s : State) : (s.raise c info).params = s.params := rfl
@[simp] theorem State.raise_pe (c : Cause) (info : Byte) (s : State) : (s.raise c info).pe = ((s.pe.setEvt (some c.status)).setCnt none).goto .sendNack := rfl
@[simp] theorem State.raise_hd (c : Cause) (info : Byte) (s : State) : (s.raise c info).hd = s.hd := rfl
@[simp] theorem State.raise_h2p (c : Cause) (info : Byte) (s : State) : (s.raise c info).h2p = s.h2p := rfl
@[simp] theorem State.raise_p2h (c : Cause) (info : Byte) (s : State) : (s.raise c info).p2h = s.p2h := rfl
@[simp] theorem State.raise_allocQ (c : Cause) (info : Byte) (s : State) : (s.raise c info).allocQ = s.allocQ := rfl
@[simp] theorem State.raise_adcQ (c : Cause) (info : Byte) (s : State) : (s.raise c info).adcQ = s.adcQ := rfl
@[simp] theorem State.raise_devwQ (c : Cause) (info : Byte) (s : State) : (s.raise c info).devwQ = s.devwQ := rfl
@[simp] theorem State.raise_opStart (c : Cause) (info : Byte) (s : State) : (s.raise c info).opStart = s.opStart := rfl
@[simp] theorem State.raise_opRetry (c : Cause) (info : Byte) (s : State) : (s.raise c info).opRetry = s.opRetry := rfl
@[simp] theorem State.raise_script (c : Cause) (info : Byte) (s : State) : (s.raise c info).script = s.script := rfl
@[simp] theorem State.raise_turn (c : Cause) (info : Byte) (s : State) : (s.raise c info).turn = s.turn := rfl
@[simp] theorem State.raise_trace (c : Cause) (info : Byte) (s : State) : (s.raise c info).trace = s.trace ++ [(.pe, .err c (some info))] := rfl

@[simp] theorem State.hdReport_params (r : Report) (s : State) : (s.hdReport r).params = s.params := rfl
@[simp] theorem State.hdReport_pe (r : Report) (s : State) : (s.hdReport r).pe = s.pe := rfl
@[simp] theorem State.hdReport_hd (r : Report) (s : State) : (s.hdReport r).hd = s.hd.setRpt (some r) := rfl
@[simp] theorem State.hdReport_h2p (r : Report) (s : State) : (s.hdReport r).h2p = s.h2p := rfl
@[simp] theorem State.hdReport_p2h (r : Report) (s : State) : (s.hdReport r).p2h = s.p2h := rfl
@[simp] theorem State.hdReport_allocQ (r : Report) (s : State) : (s.hdReport r).allocQ = s.allocQ := rfl
@[simp] theorem State.hdReport_adcQ (r : Report) (s : State) : (s.hdReport r).adcQ = s.adcQ := rfl
@[simp] theorem State.hdReport_devwQ (r : Report) (s : State) : (s.hdReport r).devwQ = s.devwQ := rfl
@[simp] theorem State.hdReport_opStart (r : Report) (s : State) : (s.hdReport r).opStart = s.opStart := rfl
@[simp] theorem State.hdReport_opRetry (r : Report) (s : State) : (s.hdReport r).opRetry = s.opRetry := rfl
@[simp] theorem State.hdReport_script (r : Report) (s : State) : (s.hdReport r).script = s.script := rfl
@[simp] theorem State.hdReport_turn (r : Report) (s : State) : (s.hdReport r).turn = s.turn := rfl
@[simp] theorem State.hdReport_trace (r : Report) (s : State) : (s.hdReport r).trace = s.trace ++ [(.hd, .report r)] := rfl

@[simp] theorem State.dropPePulses_params (s : State) : (s.dropPePulses).params = s.params := rfl
@[simp] theorem State.dropPePulses_pe (s : State) : (s.dropPePulses).pe = (s.pe.setEvt none).setBufRelease false := rfl
@[simp] theorem State.dropPePulses_hd (s : State) : (s.dropPePulses).hd = s.hd := rfl
@[simp] theorem State.dropPePulses_h2p (s : State) : (s.dropPePulses).h2p = s.h2p := rfl
@[simp] theorem State.dropPePulses_p2h (s : State) : (s.dropPePulses).p2h = s.p2h := rfl
@[simp] theorem State.dropPePulses_allocQ (s : State) : (s.dropPePulses).allocQ = s.allocQ := rfl
@[simp] theorem State.dropPePulses_adcQ (s : State) : (s.dropPePulses).adcQ = s.adcQ := rfl
@[simp] theorem State.dropPePulses_devwQ (s : State) : (s.dropPePulses).devwQ = s.devwQ := rfl
@[simp] theorem State.dropPePulses_opStart (s : State) : (s.dropPePulses).opStart = s.opStart := rfl
@[simp] theorem State.dropPePulses_opRetry (s : State) : (s.dropPePulses).opRetry = s.opRetry := rfl
@[simp] theorem State.dropPePulses_script (s : State) : (s.dropPePulses).script = s.script := rfl
@[simp] theorem State.dropPePulses_turn (s : State) : (s.dropPePulses).turn = s.turn := rfl
@[simp] theorem State.dropPePulses_trace (s : State) : (s.dropPePulses).trace = s.trace := rfl

@[simp] theorem State.dropHdPulses_params (s : State) : (s.dropHdPulses).params = s.params := rfl
@[simp] theorem State.dropHdPulses_pe (s : State) : (s.dropHdPulses).pe = s.pe := rfl
@[simp] theorem State.dropHdPulses_hd (s : State) : (s.dropHdPulses).hd = s.hd.setRpt none := rfl
@[simp] theorem State.dropHdPulses_h2p (s : State) : (s.dropHdPulses).h2p = s.h2p := rfl
@[simp] theorem State.dropHdPulses_p2h (s : State) : (s.dropHdPulses).p2h = s.p2h := rfl
@[simp] theorem State.dropHdPulses_allocQ (s : State) : (s.dropHdPulses).allocQ = s.allocQ := rfl
@[simp] theorem State.dropHdPulses_adcQ (s : State) : (s.dropHdPulses).adcQ = s.adcQ := rfl
@[simp] theorem State.dropHdPulses_devwQ (s : State) : (s.dropHdPulses).devwQ = s.devwQ := rfl
@[simp] theorem State.dropHdPulses_opStart (s : State) : (s.dropHdPulses).opStart = s.opStart := rfl
@[simp] theorem State.dropHdPulses_opRetry (s : State) : (s.dropHdPulses).opRetry = s.opRetry := rfl
@[simp] theorem State.dropHdPulses_script (s : State) : (s.dropHdPulses).script = s.script := rfl
@[simp] theorem State.dropHdPulses_turn (s : State) : (s.dropHdPulses).turn = s.turn := rfl
@[simp] theorem State.dropHdPulses_trace (s : State) : (s.dropHdPulses).trace = s.trace := rfl

end Sys2Proof.Machine
end

