-- ==== Sys2Proof/Laws/Ops.lean ====
section
/-! SUPPORT. What each shared operation can do, said once: the next states and the faults of reads, sends and receives, the counter
comparisons as comparisons of numbers, and what releasing the buffer leaves. -/

namespace Sys2Proof.Machine

variable {s t : State} {r : Fault}

/-! ## Reads that must find a value -/

theorem need_some {α : Type} (a : α) (f : Fault) (k : α → Out) : need (some a) f k = k a := rfl

theorem need_none {α : Type} (f : Fault) (k : α → Out) : need none f k = .fault f := rfl

theorem need_eq_next {α : Type} {o : Option α} {f : Fault} {k : α → Out} :
    need o f k = .next t ↔ ∃ a, o = some a ∧ k a = .next t := by
  cases o <;> simp [need]

theorem need_eq_fault {α : Type} {o : Option α} {f : Fault} {k : α → Out} :
    need o f k = .fault r ↔ (o = none ∧ f = r) ∨ ∃ a, o = some a ∧ k a = .fault r := by
  cases o <;> simp [need]

/-! ## Sends and receives: either the primitive completes and the row goes on, or the engine waits -/

/-- When the Transport takes a byte (R293). -/
theorem State.hasRoom_iff (d : Dir) : s.hasRoom d = true ↔ s.params.backPressure = false ∨
    ∀ n, s.rxDepth d = some n → (s.queue d).length < n ∨ s.queue d = [] ∧ s.receives d = true := by
  unfold State.hasRoom
  cases s.params.backPressure <;> cases s.rxDepth d <;>
    simp [Bool.or_eq_true, Bool.and_eq_true, decide_eq_true_eq]

theorem peSend_eq_next {b : Byte} {k : State → Out} :
    peSend b k s = .next t ↔
      (s.hasRoom .p2h = true ∧ k ((s.setP2h (s.p2h ++ [b])).log .pe (.tx b)) = .next t) ∨
      (s.hasRoom .p2h = false ∧ s = t) := by
  unfold peSend
  cases s.hasRoom .p2h <;> simp

theorem peSend_eq_fault {b : Byte} {k : State → Out} :
    peSend b k s = .fault r ↔
      s.hasRoom .p2h = true ∧ k ((s.setP2h (s.p2h ++ [b])).log .pe (.tx b)) = .fault r := by
  unfold peSend
  cases s.hasRoom .p2h <;> simp

theorem hdSend_eq_next {b : Byte} {k : State → Out} :
    hdSend b k s = .next t ↔
      (s.hasRoom .h2p = true ∧ k ((s.setH2p (s.h2p ++ [b])).log .hd (.tx b)) = .next t) ∨
      (s.hasRoom .h2p = false ∧ s = t) := by
  unfold hdSend
  cases s.hasRoom .h2p <;> simp

theorem hdSend_eq_fault {b : Byte} {k : State → Out} :
    hdSend b k s = .fault r ↔
      s.hasRoom .h2p = true ∧ k ((s.setH2p (s.h2p ++ [b])).log .hd (.tx b)) = .fault r := by
  unfold hdSend
  cases s.hasRoom .h2p <;> simp

theorem peRecv_eq_next {k : Byte → State → Out} :
    peRecv k s = .next t ↔
      (∃ b q, s.h2p = b :: q ∧ k b ((s.setH2p q).log .pe (.rx b)) = .next t) ∨ (s.h2p = [] ∧ s = t) := by
  unfold peRecv
  cases s.h2p <;> simp

theorem peRecv_eq_fault {k : Byte → State → Out} :
    peRecv k s = .fault r ↔ ∃ b q, s.h2p = b :: q ∧ k b ((s.setH2p q).log .pe (.rx b)) = .fault r := by
  unfold peRecv
  cases s.h2p <;> simp

theorem hdRecv_eq_next {k : Byte → State → Out} :
    hdRecv k s = .next t ↔
      (∃ b q, s.p2h = b :: q ∧ k b ((s.setP2h q).log .hd (.rx b)) = .next t) ∨ (s.p2h = [] ∧ s = t) := by
  unfold hdRecv
  cases s.p2h <;> simp

theorem hdRecv_eq_fault {k : Byte → State → Out} :
    hdRecv k s = .fault r ↔ ∃ b q, s.p2h = b :: q ∧ k b ((s.setP2h q).log .hd (.rx b)) = .fault r := by
  unfold hdRecv
  cases s.p2h <;> simp

theorem peTake_eq_next {b : Byte} {k : State → Out} :
    peTake b k s = .next t ↔
      (∃ b' q, s.h2p = b' :: q ∧ k ((s.setH2p q).log .pe (.rx b)) = .next t) ∨ (s.h2p = [] ∧ s = t) := by
  unfold peTake
  cases s.h2p <;> simp

theorem peTake_eq_fault {b : Byte} {k : State → Out} :
    peTake b k s = .fault r ↔ ∃ b' q, s.h2p = b' :: q ∧ k ((s.setH2p q).log .pe (.rx b)) = .fault r := by
  unfold peTake
  cases s.h2p <;> simp

theorem hdTakeAck_eq_next {b : Byte} {k : State → Out} :
    hdTakeAck b k s = .next t ↔
      (∃ b' q, s.p2h = b' :: q ∧
        k (((s.setP2h q).log .hd (.rx b)).setHd (s.hd.setLastAck (some b))) = .next t) ∨ (s.p2h = [] ∧ s = t) := by
  unfold hdTakeAck
  cases s.p2h <;> simp

theorem hdTakeAck_eq_fault {b : Byte} {k : State → Out} :
    hdTakeAck b k s = .fault r ↔
      ∃ b' q, s.p2h = b' :: q ∧
        k (((s.setP2h q).log .hd (.rx b)).setHd (s.hd.setLastAck (some b))) = .fault r := by
  unfold hdTakeAck
  cases s.p2h <;> simp

/-! ## The allocator -/

/-- The allocator's answer leaves everything but its own queue of answers alone. -/
theorem State.allocAnswer_eq_some {ok : Bool} (h : s.allocAnswer = some (ok, t)) : ∃ q, t = s.setAllocQ q := by
  unfold State.allocAnswer at h
  split at h
  · simp only [Option.some.injEq, Prod.mk.injEq] at h
    exact ⟨s.allocQ, h.2 ▸ rfl⟩
  · split at h
    · cases h
    · simp only [Option.some.injEq, Prod.mk.injEq] at h
      exact ⟨_, h.2.symm⟩

/-! ## Releasing the buffer if it is held -/

theorem State.releaseIfHeld_of_held (h : s.pe.alloc = true) : s.releaseIfHeld = s.release := by
  simp [State.releaseIfHeld, h]

theorem State.releaseIfHeld_of_not (h : s.pe.alloc = false) : s.releaseIfHeld = s := by
  simp [State.releaseIfHeld, h]

/-! ## Counters and store addresses as numbers (R120) -/

theorem Cnt.lt_ofByte (c : Cnt) (len : Byte) : c < Cnt.ofByte len ↔ c.toNat < len.toNat := by
  unfold Cnt.ofByte
  rw [BitVec.lt_def, BitVec.toNat_setWidth_of_le (by decide)]

theorem Cnt.eq_ofByte (c : Cnt) (len : Byte) : c = Cnt.ofByte len ↔ c.toNat = len.toNat := by
  unfold Cnt.ofByte
  rw [← BitVec.toNat_inj, BitVec.toNat_setWidth_of_le (by decide)]

/-- The counters never wrap: they are incremented below 256 only (R22, R120). -/
theorem Cnt.toNat_succ {c : Cnt} (h : c.toNat < 256) : (c + 1).toNat = c.toNat + 1 := by
  rw [BitVec.toNat_add]
  exact Nat.mod_eq_of_lt (by show c.toNat + 1 < 512; omega)

theorem hfsPayloadAddr_eq {c : Cnt} (h : c.toNat < 256) : hfsPayloadAddr c = 8 + c.toNat := by
  unfold hfsPayloadAddr
  rw [BitVec.toNat_add]
  exact Nat.mod_eq_of_lt (by show 8 + c.toNat < 512; omega)

theorem hfsStopAddr_eq (len : Byte) : hfsStopAddr len = 8 + len.toNat := by
  unfold hfsStopAddr Cnt.ofByte
  rw [BitVec.toNat_add, BitVec.toNat_setWidth_of_le (by decide)]
  exact Nat.mod_eq_of_lt (by show 8 + len.toNat < 512; have := len.isLt; omega)

end Sys2Proof.Machine
end

