-- ==== Sys2Proof/Laws/Dispatch.lean ====
section
/-! SUPPORT. Which shared row function each family of instructions runs, and what the typed decoders give. -/

namespace Sys2Proof.Machine

/-- Every header instruction runs the peripheral's rows with its own fields. -/
theorem exec_of_peHeader {i : Instr} (h : i.context = .peHeader) :
    ∃ id len mode, ∀ s, exec i s = peHeaderRow id len mode s := by
  cases i <;> first | exact ⟨_, _, _, fun _ => rfl⟩ | cases h

/-- A Write instruction runs the peripheral's rows with its device, its length and the Write mode. -/
theorem exec_of_writeFrame {i : Instr} {d : DevId} {len : Byte} (h : writeFrame i = some (d, len)) :
    ∃ id, deviceOf id = d ∧ validateBoard id = true ∧ ∀ s, exec i s = peHeaderRow id len 0x02 s := by
  cases i with
  | writeLed l _ => cases h; exact ⟨0x00, by decide, by decide, fun _ => rfl⟩
  | writeLcd1 l _ => cases h; exact ⟨0x01, by decide, by decide, fun _ => rfl⟩
  | writeLcd2 l _ => cases h; exact ⟨0x02, by decide, by decide, fun _ => rfl⟩
  | writeLcd3 l _ => cases h; exact ⟨0x03, by decide, by decide, fun _ => rfl⟩
  | _ => cases h

/-- The identifier of a two-bit device passes the board check and names the device. -/
theorem device_identifier : ∀ d : DevId, deviceOf (d.setWidth 8) = d ∧ validateBoard (d.setWidth 8) = true := by
  decide

/-- An acknowledgment token runs the host's acknowledgment row with its byte. -/
theorem exec_of_ackByte {i : Instr} {b : Byte} (h : ackByte i = some b) (s : State) :
    exec i s = hdAckRow b s := by
  cases i <;> cases h <;> rfl

/-- A stored frame runs the host's rows with its length. -/
theorem exec_of_hostFrame {i : Instr} {len : Byte} (h : hostFrame i = some len) (s : State) :
    exec i s = hdStoreRow len s := by
  cases i <;> cases h <;> rfl

/-- Executing the header the registers hold is the row of the table with those registers' values. -/
theorem exec_decodeHeader (id len mode : Byte) (rsv : Rsv) (s : State) :
    exec (decodeHeader id len mode rsv) s = peHeaderRow id len mode s := by
  have key : ∀ id : Byte, id &&& 0xFC = 0x00 →
      (id.setWidth 2).setWidth 8 = id ∧ (id = 0x00 ∨ id = 0x01 ∨ id = 0x02 ∨ id = 0x03) := by decide
  unfold decodeHeader
  split
  · rfl
  · rename_i h
    obtain ⟨h8, hid⟩ := key id (not_not.1 h)
    split
    · subst mode
      simp [exec, execReadAdc, h8]
    · split
      · subst mode
        rcases hid with rfl | rfl | rfl | rfl <;> rfl
      · simp [exec, execHdrBadMode, h8]

/-- Executing the stored header is the host's row with its length. -/
theorem exec_decodeStore (start id len mode : Byte) (rsv : Rsv) (s : State) :
    exec (decodeStore start id len mode rsv) s = hdStoreRow len s := by
  unfold decodeStore
  split <;> rfl

/-- Executing an acknowledgment byte is the host's acknowledgment row with it. -/
theorem exec_decodeAck (b : Byte) (s : State) : exec (decodeAck b) s = hdAckRow b s := by
  unfold decodeAck
  split
  · subst b; rfl
  · split
    · subst b; rfl
    · rfl

end Sys2Proof.Machine
end

