-- ==== Sys2Proof/Laws/PerInstr.lean ====
section
/-! SUPPORT. The per-instruction family `EncodeShape`: the form an instruction's bytes take and its row of the opcode table. -/

namespace Sys2Proof.Laws.EncodeShape

/-- An instruction is eight bytes at a header position and one elsewhere, a header the peripheral decodes begins with the start
marker, and the row it stands for is a row of its own position. -/
def Statement (i : Instr) : Prop :=
  (encode i).length = (match i.context with
    | .peHeader => 8
    | .hdFrameStore => 8
    | .peWaitStart => 1
    | .peStop => 1
    | .hdAck => 1) ∧
  (i.context = .peHeader → (encode i).head? = some 0xFE) ∧
  (opcodeTable[i.row]?).map TableRow.context = some i.context

theorem readAdc (dev : DevId) (len : Byte) (rsv : Rsv) : Statement (.readAdc dev len rsv) :=
  ⟨rfl, fun _ => rfl, rfl⟩

theorem writeLed (len : Byte) (rsv : Rsv) : Statement (.writeLed len rsv) :=
  ⟨rfl, fun _ => rfl, rfl⟩

theorem writeLcd1 (len : Byte) (rsv : Rsv) : Statement (.writeLcd1 len rsv) :=
  ⟨rfl, fun _ => rfl, rfl⟩

theorem writeLcd2 (len : Byte) (rsv : Rsv) : Statement (.writeLcd2 len rsv) :=
  ⟨rfl, fun _ => rfl, rfl⟩

theorem writeLcd3 (len : Byte) (rsv : Rsv) : Statement (.writeLcd3 len rsv) :=
  ⟨rfl, fun _ => rfl, rfl⟩

theorem hdrBadMode (dev : DevId) (len mode : Byte) (rsv : Rsv) : Statement (.hdrBadMode dev len mode rsv) :=
  ⟨rfl, fun _ => rfl, rfl⟩

theorem hdrBadBoard (id len mode : Byte) (rsv : Rsv) : Statement (.hdrBadBoard id len mode rsv) :=
  ⟨rfl, fun _ => rfl, rfl⟩

theorem start : Statement .start :=
  ⟨rfl, nofun, rfl⟩

theorem discard (b : Byte) : Statement (.discard b) :=
  ⟨rfl, nofun, rfl⟩

theorem stop : Statement .stop :=
  ⟨rfl, nofun, rfl⟩

theorem stopBad (b : Byte) : Statement (.stopBad b) :=
  ⟨rfl, nofun, rfl⟩

theorem ack : Statement .ack :=
  ⟨rfl, nofun, rfl⟩

theorem nack : Statement .nack :=
  ⟨rfl, nofun, rfl⟩

theorem nackOther (b : Byte) : Statement (.nackOther b) :=
  ⟨rfl, nofun, rfl⟩

theorem hostRead (start id len : Byte) (rsv : Rsv) : Statement (.hostRead start id len rsv) :=
  ⟨rfl, nofun, rfl⟩

theorem hostWrite (start id len mode : Byte) (rsv : Rsv) : Statement (.hostWrite start id len mode rsv) :=
  ⟨rfl, nofun, rfl⟩

end Sys2Proof.Laws.EncodeShape
end

