-- ==== Sys2Proof/Laws/Rows.lean ====
section
/-! SUPPORT. Everything one move of an engine can do, said once: the rows of R151 and R201 as relations between the state before
and the state after, and the inversion lemmas that give them. -/

namespace Sys2Proof.Machine

/-- One move of the peripheral that answers a next state: it waits, or it takes one row of R151. Every row starts from the pulses
dropped. -/
inductive PeRow (s : State) : State → Prop
  /-- The engine waits or has stopped (R290, T18). -/
  | wait : PeRow s { s with pe := { s.pe with evt := none, bufRelease := false } }
  /-- T1a. -/
  | start (q : List Byte) (hs : s.pe.state = .waitStart) (hq : s.h2p = Config.start :: q) :
    PeRow s { s with
      h2p := q, trace := s.trace ++ [(.pe, .rx Config.start)],
      pe := { s.pe with state := .readHeader, cnt := some 1, evt := none, bufRelease := false } }
  /-- T1b. -/
  | discard (b : Byte) (q : List Byte) (hs : s.pe.state = .waitStart) (hb : b ≠ Config.start) (hq : s.h2p = b :: q) :
    PeRow s { s with
      h2p := q, trace := s.trace ++ [(.pe, .rx b)], pe := { s.pe with evt := none, bufRelease := false } }
  /-- T2a. -/
  | header (c : Cnt) (b : Byte) (q : List Byte) (hs : s.pe.state = .readHeader) (hc : s.pe.cnt = some c)
    (h1 : 1 ≤ c.toNat) (h7 : c.toNat < 7) (hq : s.h2p = b :: q) :
    PeRow s { s with
      h2p := q, trace := s.trace ++ [(.pe, .rx b)],
      pe := { s.pe.storeHeader c.toNat b with
        state := .readHeader, cnt := some (c + 1), evt := none, bufRelease := false } }
  /-- T2b. -/
  | headerLast (c : Cnt) (b : Byte) (q : List Byte) (hs : s.pe.state = .readHeader) (hc : s.pe.cnt = some c)
    (h7 : c.toNat = 7) (hq : s.h2p = b :: q) :
    PeRow s { s with
      h2p := q, trace := s.trace ++ [(.pe, .rx b)],
      pe := { s.pe with
        rsv3 := some b, state := .validateBoard, cnt := none, evt := none, bufRelease := false } }
  /-- T3a. -/
  | boardGood (id : Byte) (hs : s.pe.state = .validateBoard) (hid : s.pe.id = some id) (hv : validateBoard id = true) :
    PeRow s { s with pe := { s.pe with state := .validateMode, cnt := none, evt := none, bufRelease := false } }
  /-- T3b. -/
  | boardBad (id : Byte) (hs : s.pe.state = .validateBoard) (hid : s.pe.id = some id) (hv : validateBoard id = false) :
    PeRow s { s with
      trace := s.trace ++ [(.pe, .err .badBoardId (some id))],
      pe := { s.pe with state := .sendNack, cnt := none, evt := some .badBoardId, bufRelease := false } }
  /-- T4a. -/
  | modeGood (m : Byte) (hs : s.pe.state = .validateMode) (hm : s.pe.mode = some m) (hv : validateMode m = true) :
    PeRow s { s with pe := { s.pe with state := .allocateBuffer, cnt := none, evt := none, bufRelease := false } }
  /-- T4b. -/
  | modeBad (m : Byte) (hs : s.pe.state = .validateMode) (hm : s.pe.mode = some m) (hv : validateMode m = false) :
    PeRow s { s with
      trace := s.trace ++ [(.pe, .err .badMode (some m))],
      pe := { s.pe with state := .sendNack, cnt := none, evt := some .badMode, bufRelease := false } }
  /-- T5a. -/
  | allocated (len m : Byte) (q : List Bool) (hs : s.pe.state = .allocateBuffer) (hl : s.pe.len = some len)
    (hm : s.pe.mode = some m) :
    PeRow s { s with
      allocQ := q, trace := s.trace ++ [(.pe, .alloc len true)],
      pe := { s.pe with
        state := if m = Config.modeRead then .rHdrAck else .wHdrAck,
        cnt := none, alloc := true, evt := none, bufRelease := false } }
  /-- T5b. -/
  | notAllocated (len : Byte) (q : List Bool) (hs : s.pe.state = .allocateBuffer) (hl : s.pe.len = some len) :
    PeRow s { s with
      allocQ := q, trace := s.trace ++ [(.pe, .alloc len false), (.pe, .err .allocationFailure (some len))],
      pe := { s.pe with state := .sendNack, cnt := none, evt := some .allocationFailure, bufRelease := false } }
  /-- T6, with a buffer to release. -/
  | nackRelease (hs : s.pe.state = .sendNack) (ha : s.pe.alloc = true) :
    PeRow s { s with
      p2h := s.p2h ++ [Config.nack], trace := s.trace ++ [(.pe, .tx Config.nack), (.pe, .release)],
      pe := { Pe.reset with bufRelease := true } }
  /-- T6, without a buffer. -/
  | nackOnly (hs : s.pe.state = .sendNack) (ha : s.pe.alloc = false) :
    PeRow s { s with
      p2h := s.p2h ++ [Config.nack], trace := s.trace ++ [(.pe, .tx Config.nack)],
      pe := { Pe.reset with alloc := s.pe.alloc, buf := s.pe.buf } }
  /-- T7. -/
  | writeAck (hs : s.pe.state = .wHdrAck) :
    PeRow s { s with
      p2h := s.p2h ++ [Config.ack], trace := s.trace ++ [(.pe, .tx Config.ack)],
      pe := { s.pe with state := .wPayload, cnt := some 0, evt := none, bufRelease := false } }
  /-- T8a. -/
  | payload (c : Cnt) (len b : Byte) (q : List Byte) (hs : s.pe.state = .wPayload) (hc : s.pe.cnt = some c)
    (hl : s.pe.len = some len) (hlt : c.toNat < len.toNat) (hq : s.h2p = b :: q) :
    PeRow s { s with
      h2p := q, trace := s.trace ++ [(.pe, .rx b)],
      pe := { s.pe with
        state := .wPayload, buf := s.pe.buf.write c.toNat b, cnt := some (c + 1), evt := none, bufRelease := false } }
  /-- T8b. -/
  | payloadDone (c : Cnt) (len : Byte) (hs : s.pe.state = .wPayload) (hc : s.pe.cnt = some c)
    (hl : s.pe.len = some len) (heq : c.toNat = len.toNat) :
    PeRow s { s with pe := { s.pe with state := .wStop, cnt := none, evt := none, bufRelease := false } }
  /-- T9a. -/
  | writeStop (q : List Byte) (hs : s.pe.state = .wStop) (hq : s.h2p = Config.stop :: q) :
    PeRow s { s with
      h2p := q, trace := s.trace ++ [(.pe, .rx Config.stop)],
      pe := { s.pe with state := .wFinalAck, cnt := none, evt := none, bufRelease := false } }
  /-- T9b and T15b. -/
  | stopBad (b : Byte) (q : List Byte) (hs : s.pe.state = .wStop ∨ s.pe.state = .rStop) (hb : b ≠ Config.stop)
    (hq : s.h2p = b :: q) :
    PeRow s { s with
      h2p := q, trace := s.trace ++ [(.pe, .rx b), (.pe, .err .stopByteError (some b))],
      pe := { s.pe with state := .sendNack, cnt := none, evt := some .stopByteError, bufRelease := false } }
  /-- T10. -/
  | writeFinalAck (hs : s.pe.state = .wFinalAck) :
    PeRow s { s with
      p2h := s.p2h ++ [Config.ack], trace := s.trace ++ [(.pe, .tx Config.ack)],
      pe := { s.pe with state := .wDispatch, cnt := none, evt := none, bufRelease := false } }
  /-- T11. -/
  | dispatch (id len : Byte) (n : Nat) (bytes : List Byte) (hs : s.pe.state = .wDispatch) (hid : s.pe.id = some id)
    (hl : s.pe.len = some len) (hn : s.devwQ = n + 1) (hb : s.pe.buf.readSeq 0 len.toNat = some bytes) :
    PeRow s { s with
      devwQ := n, trace := s.trace ++ [(.pe, .devw (selectWrite (deviceOf id)) (deviceOf id) bytes), (.pe, .release)],
      pe := { Pe.reset with bufRelease := true, evt := some .frameDoneWrite } }
  /-- T12. -/
  | readAck (hs : s.pe.state = .rHdrAck) :
    PeRow s { s with
      p2h := s.p2h ++ [Config.ack], trace := s.trace ++ [(.pe, .tx Config.ack)],
      pe := { s.pe with state := .rFill, cnt := none, evt := none, bufRelease := false } }
  /-- T13. -/
  | fill (id len : Byte) (samples q : List Byte) (hs : s.pe.state = .rFill) (hid : s.pe.id = some id)
    (hl : s.pe.len = some len) (hq : s.adcQ = samples ++ q) (hn : samples.length = len.toNat) :
    PeRow s { s with
      adcQ := q, trace := s.trace ++ [(.pe, .devr .adc (deviceOf id) len samples)],
      pe := { s.pe with
        state := .rStream, cnt := some 0, buf := s.pe.buf.writeSeq 0 samples, evt := none, bufRelease := false } }
  /-- T14a. -/
  | stream (c : Cnt) (len b : Byte) (hs : s.pe.state = .rStream) (hc : s.pe.cnt = some c) (hl : s.pe.len = some len)
    (hlt : c.toNat < len.toNat) (hb : s.pe.buf.read c.toNat = some b) :
    PeRow s { s with
      p2h := s.p2h ++ [b], trace := s.trace ++ [(.pe, .tx b)],
      pe := { s.pe with state := .rStream, cnt := some (c + 1), evt := none, bufRelease := false } }
  /-- T14b. -/
  | streamDone (c : Cnt) (len : Byte) (hs : s.pe.state = .rStream) (hc : s.pe.cnt = some c)
    (hl : s.pe.len = some len) (heq : c.toNat = len.toNat) :
    PeRow s { s with
      trace := s.trace ++ [(.pe, .release)],
      pe := { s.pe with state := .rStop, cnt := none, alloc := false, buf := [], evt := none, bufRelease := true } }
  /-- T15a. -/
  | readStop (q : List Byte) (hs : s.pe.state = .rStop) (hq : s.h2p = Config.stop :: q) :
    PeRow s { s with
      h2p := q, trace := s.trace ++ [(.pe, .rx Config.stop)],
      pe := { s.pe with state := .rFinalAck, cnt := none, evt := none, bufRelease := false } }
  /-- T16. -/
  | readFinalAck (hs : s.pe.state = .rFinalAck) :
    PeRow s { s with
      p2h := s.p2h ++ [Config.ack], trace := s.trace ++ [(.pe, .tx Config.ack)],
      pe := { Pe.reset with alloc := s.pe.alloc, buf := s.pe.buf, evt := some .frameDoneRead } }

/-- One move of the host that answers a next state: it waits, or it takes one row of R201. -/
inductive HdRow (s : State) : State → Prop
  /-- The driver waits or has stopped (R290, H12). -/
  | wait : HdRow s { s with hd := { s.hd with rpt := none } }
  /-- H1 and H4: the operator's trigger is taken. -/
  | opStart (hs : s.hd.state = .idle) (ho : s.opStart = true) (hf : (s.hd.hfs.readSeq 0 8).isSome) :
    HdRow s { s with
      opStart := false, trace := s.trace ++ [(.hd, .op .start)],
      hd := { s.hd with state := .sendHeader, cnt := some 0, rpt := none } }
  | opRetry (hs : s.hd.state = .retryPrompt) (ho : s.opRetry = true) :
    HdRow s { s with
      opRetry := false, trace := s.trace ++ [(.hd, .op .retry)],
      hd := { s.hd with state := .sendHeader, cnt := some 0, rpt := none } }
  /-- H2a. -/
  | header (c : Cnt) (b : Byte) (hs : s.hd.state = .sendHeader) (hc : s.hd.cnt = some c) (hlt : c.toNat < 7)
    (hb : s.hd.hfs.read c.toNat = some b) :
    HdRow s { s with
      h2p := s.h2p ++ [b], trace := s.trace ++ [(.hd, .tx b)],
      hd := { s.hd with state := .sendHeader, cnt := some (c + 1), rpt := none } }
  /-- H2b. -/
  | headerLast (c : Cnt) (b : Byte) (hs : s.hd.state = .sendHeader) (hc : s.hd.cnt = some c) (heq : c.toNat = 7)
    (hb : s.hd.hfs.read 7 = some b) :
    HdRow s { s with
      h2p := s.h2p ++ [b], trace := s.trace ++ [(.hd, .tx b)],
      hd := { s.hd with state := .waitHdrAck, cnt := none, rpt := none } }
  /-- H3a and H3b. -/
  | headerAck (m : Byte) (q : List Byte) (hs : s.hd.state = .waitHdrAck) (hq : s.p2h = Config.ack :: q)
    (hm : s.hd.hfs.read 3 = some m) :
    HdRow s { s with
      p2h := q, trace := s.trace ++ [(.hd, .rx Config.ack)],
      hd := { s.hd with
        lastAck := some Config.ack, state := if m = Config.modeRead then .rRecvPayload else .wSendPayload,
        cnt := some 0, rpt := none } }
  /-- H3c. -/
  | headerNack (b : Byte) (q : List Byte) (hs : s.hd.state = .waitHdrAck) (hb : b ≠ Config.ack) (hq : s.p2h = b :: q) :
    HdRow s { s with
      p2h := q, trace := s.trace ++ [(.hd, .rx b), (.hd, .report .headerNack)],
      hd := { s.hd with lastAck := some b, state := .retryPrompt, cnt := none, rpt := some .headerNack } }
  /-- H5a. -/
  | payload (c : Cnt) (len b : Byte) (hs : s.hd.state = .wSendPayload) (hc : s.hd.cnt = some c)
    (hl : s.hd.hfs.read 2 = some len) (hlt : c.toNat < len.toNat) (hb : s.hd.hfs.read (8 + c.toNat) = some b) :
    HdRow s { s with
      h2p := s.h2p ++ [b], trace := s.trace ++ [(.hd, .tx b)],
      hd := { s.hd with state := .wSendPayload, cnt := some (c + 1), rpt := none } }
  /-- H5b. -/
  | payloadDone (c : Cnt) (len : Byte) (hs : s.hd.state = .wSendPayload) (hc : s.hd.cnt = some c)
    (hl : s.hd.hfs.read 2 = some len) (heq : c.toNat = len.toNat) :
    HdRow s { s with hd := { s.hd with state := .wSendStop, cnt := none, rpt := none } }
  /-- H6. -/
  | writeStop (len b : Byte) (hs : s.hd.state = .wSendStop) (hl : s.hd.hfs.read 2 = some len)
    (hb : s.hd.hfs.read (8 + len.toNat) = some b) :
    HdRow s { s with
      h2p := s.h2p ++ [b], trace := s.trace ++ [(.hd, .tx b)],
      hd := { s.hd with state := .wWaitFinal, cnt := none, rpt := none } }
  /-- H7 and H10. -/
  | final (b : Byte) (q : List Byte) (hs : s.hd.state = .wWaitFinal ∨ s.hd.state = .rWaitFinal) (hq : s.p2h = b :: q) :
    HdRow s { s with
      p2h := q, trace := s.trace ++ [(.hd, .rx b), (.hd, .report (if b = Config.ack then .success else .stopBitsError))],
      hd := { s.hd with
        lastAck := some b, state := .idle, cnt := none,
        rpt := some (if b = Config.ack then .success else .stopBitsError) } }
  /-- H8a. -/
  | receive (c : Cnt) (len b : Byte) (q : List Byte) (hs : s.hd.state = .rRecvPayload) (hc : s.hd.cnt = some c)
    (hl : s.hd.hfs.read 2 = some len) (hlt : c.toNat < len.toNat) (hq : s.p2h = b :: q) :
    HdRow s { s with
      p2h := q, trace := s.trace ++ [(.hd, .rx b)],
      hd := { s.hd with state := .rRecvPayload, hrx := s.hd.hrx.write c.toNat b, cnt := some (c + 1), rpt := none } }
  /-- H8b. -/
  | receiveDone (c : Cnt) (len : Byte) (hs : s.hd.state = .rRecvPayload) (hc : s.hd.cnt = some c)
    (hl : s.hd.hfs.read 2 = some len) (heq : c.toNat = len.toNat) :
    HdRow s { s with
      hd := { s.hd with state := .rSendStop, hrx := s.hd.hrx.truncate len.toNat, cnt := none, rpt := none } }
  /-- H9. -/
  | readStop (len b : Byte) (hs : s.hd.state = .rSendStop) (hl : s.hd.hfs.read 2 = some len)
    (hb : s.hd.hfs.read (8 + len.toNat) = some b) :
    HdRow s { s with
      h2p := s.h2p ++ [b], trace := s.trace ++ [(.hd, .tx b)],
      hd := { s.hd with state := .rWaitFinal, cnt := none, rpt := none } }

/-! A header byte stored changes no other field of the peripheral. -/

@[simp] theorem Pe.storeHeader_state (k : Nat) (b : Byte) (p : Pe) : (p.storeHeader k b).state = p.state := by
  unfold Pe.storeHeader; split <;> rfl

@[simp] theorem Pe.storeHeader_cnt (k : Nat) (b : Byte) (p : Pe) : (p.storeHeader k b).cnt = p.cnt := by
  unfold Pe.storeHeader; split <;> rfl

@[simp] theorem Pe.storeHeader_alloc (k : Nat) (b : Byte) (p : Pe) : (p.storeHeader k b).alloc = p.alloc := by
  unfold Pe.storeHeader; split <;> rfl

@[simp] theorem Pe.storeHeader_buf (k : Nat) (b : Byte) (p : Pe) : (p.storeHeader k b).buf = p.buf := by
  unfold Pe.storeHeader; split <;> rfl

@[simp] theorem Pe.storeHeader_evt (k : Nat) (b : Byte) (p : Pe) : (p.storeHeader k b).evt = p.evt := by
  unfold Pe.storeHeader; split <;> rfl

@[simp] theorem Pe.storeHeader_bufRelease (k : Nat) (b : Byte) (p : Pe) : (p.storeHeader k b).bufRelease = p.bufRelease := by
  unfold Pe.storeHeader; split <;> rfl

/-- Running the header the registers hold is the row with those registers' values. -/
theorem runFetched_peHeader {s u : State} {o : Out} (h : runFetched s.pe.header u = o) :
    (∃ r, o = .fault r) ∨ ∃ id len mode, s.pe.id = some id ∧ s.pe.len = some len ∧ s.pe.mode = some mode ∧
      peHeaderRow id len mode u = o := by
  unfold Pe.header at h
  split at h
  · rename_i id len mode r0 r1 r2 r3 h1 h2 h3 _ _ _ _
    exact .inr ⟨id, len, mode, h1, h2, h3, by rw [← h]; exact (exec_decodeHeader id len mode ⟨r0, r1, r2, r3⟩ u).symm⟩
  · exact .inl ⟨_, h.symm⟩

/-- Running the stored header is the host's row with the stored length. -/
theorem runFetched_hdStored {s u : State} {o : Out} (h : runFetched s.hd.stored u = o) :
    (∃ r, o = .fault r) ∨ ∃ len, s.hd.hfs.read 2 = some len ∧ (s.hd.hfs.readSeq 0 8).isSome ∧
      hdStoreRow len u = o := by
  unfold Hd.stored at h
  split at h
  · rename_i st id len mode r0 r1 r2 r3 hr
    refine .inr ⟨len, ?_, by simp [hr], by rw [← h]; exact (exec_decodeStore st id len mode ⟨r0, r1, r2, r3⟩ u).symm⟩
    simpa using (Memory.readSeq_eq_some.1 hr).2 2 (by decide)
  · exact .inl ⟨_, h.symm⟩

/-! ## The rows of the peripheral -/

section
variable {s t : State} {id len mode : Byte}

theorem rowReadHeader_row (hs : s.pe.state = .readHeader) (h : rowReadHeader s.dropPePulses = .next t) : PeRow s t := by
  obtain ⟨c, hc, h⟩ := need_eq_next.1 h
  split at h
  · rename_i hr
    rcases peRecv_eq_next.1 h with ⟨b, q, hq, h⟩ | ⟨_, rfl⟩
    · simp only at h
      split at h
      · cases h
        have : (s.dropPePulses.pe.storeHeader c.toNat b) =
            { s.pe.storeHeader c.toNat b with evt := none, bufRelease := false } := by
          unfold Pe.storeHeader
          split <;> rfl
        have key := PeRow.header c b q hs hc hr.1 ‹_› hq
        simp only [State.setH2p, State.log, State.setPe, State.peCount, Pe.setCnt, Pe.goto, this]
        exact key
      · cases h
        have h7 : c.toNat = 7 := by omega
        rw [h7]
        exact .headerLast c b q hs hc h7 hq
    · exact .wait
  · cases h

theorem rowValidateBoard_row (hs : s.pe.state = .validateBoard) (h1 : s.pe.id = some id)
    (h : rowValidateBoard id s.dropPePulses = .next t) : PeRow s t := by
  unfold rowValidateBoard at h
  split at h <;> cases h
  · exact .boardGood id hs h1 ‹_›
  · exact .boardBad id hs h1 (by simpa using ‹¬validateBoard id = true›)

theorem rowValidateMode_row (hs : s.pe.state = .validateMode) (h1 : s.pe.mode = some mode)
    (h : rowValidateMode mode s.dropPePulses = .next t) : PeRow s t := by
  unfold rowValidateMode at h
  split at h <;> cases h
  · exact .modeGood mode hs h1 ‹_›
  · exact .modeBad mode hs h1 (by simpa using ‹¬validateMode mode = true›)

theorem rowAllocate_row (hs : s.pe.state = .allocateBuffer) (h1 : s.pe.len = some len) (h2 : s.pe.mode = some mode)
    (h : rowAllocate len mode s.dropPePulses = .next t) : PeRow s t := by
  unfold rowAllocate at h
  split at h
  · cases h; exact .wait
  · rename_i s' ha
    obtain ⟨q, rfl⟩ := State.allocAnswer_eq_some ha
    cases h; exact .allocated len mode q hs h1 h2
  · rename_i s' ha
    obtain ⟨q, rfl⟩ := State.allocAnswer_eq_some ha
    cases h
    simp only [State.raise, State.log, State.setAllocQ, State.setPe, State.peGoto, List.append_assoc]
    exact .notAllocated len q hs h1

theorem rowSendNack_row (hs : s.pe.state = .sendNack) (h : rowSendNack s.dropPePulses = .next t) : PeRow s t := by
  rcases peSend_eq_next.1 h with ⟨_, h⟩ | ⟨_, rfl⟩
  · cases h
    cases ha : s.pe.alloc with
    | true =>
      rw [State.releaseIfHeld_of_held (by simpa using ha)]
      simp only [State.peWaitStart, State.release, State.log, State.setP2h, State.setPe, List.append_assoc]
      exact .nackRelease hs ha
    | false =>
      rw [State.releaseIfHeld_of_not (by simpa using ha)]
      exact .nackOnly hs ha
  · exact .wait

theorem rowWHdrAck_row (hs : s.pe.state = .wHdrAck) (h : rowWHdrAck s.dropPePulses = .next t) : PeRow s t := by
  rcases peSend_eq_next.1 h with ⟨_, h⟩ | ⟨_, rfl⟩
  · cases h; exact .writeAck hs
  · exact .wait

theorem rowWPayload_row (hs : s.pe.state = .wPayload) (h1 : s.pe.len = some len)
    (h : rowWPayload len s.dropPePulses = .next t) : PeRow s t := by
  obtain ⟨c, hc, h⟩ := need_eq_next.1 h
  split at h
  · rename_i hlt
    rcases peRecv_eq_next.1 h with ⟨b, q, hq, h⟩ | ⟨_, rfl⟩
    · cases h; exact .payload c len b q hs hc h1 ((Cnt.lt_ofByte _ _).1 hlt) hq
    · exact .wait
  · split at h <;> cases h
    exact .payloadDone c len hs hc h1 ((Cnt.eq_ofByte _ _).1 ‹_›)

theorem rowWFinalAck_row (hs : s.pe.state = .wFinalAck) (h : rowWFinalAck s.dropPePulses = .next t) : PeRow s t := by
  rcases peSend_eq_next.1 h with ⟨_, h⟩ | ⟨_, rfl⟩
  · cases h; exact .writeFinalAck hs
  · exact .wait

theorem rowWDispatch_row (hs : s.pe.state = .wDispatch) (h1 : s.pe.id = some id) (h2 : s.pe.len = some len)
    (h : rowWDispatch (deviceOf id) len s.dropPePulses = .next t) : PeRow s t := by
  unfold rowWDispatch at h
  split at h
  · cases h; exact .wait
  · rename_i n hn
    obtain ⟨bytes, hb, h⟩ := need_eq_next.1 h
    cases h
    simp only [State.peWaitStart, State.release, State.log, State.setDevwQ, State.setPe, List.append_assoc]
    exact .dispatch id len n bytes hs h1 h2 hn hb

theorem rowRHdrAck_row (hs : s.pe.state = .rHdrAck) (h : rowRHdrAck s.dropPePulses = .next t) : PeRow s t := by
  rcases peSend_eq_next.1 h with ⟨_, h⟩ | ⟨_, rfl⟩
  · cases h; exact .readAck hs
  · exact .wait

theorem rowRFill_row (hs : s.pe.state = .rFill) (h1 : s.pe.id = some id) (h2 : s.pe.len = some len)
    (h : rowRFill (deviceOf id) len s.dropPePulses = .next t) : PeRow s t := by
  unfold rowRFill at h
  split at h
  · rename_i hl
    cases h
    simp only [State.setAdcQ, State.log, State.setPe, State.peCount, Pe.setBuf, Pe.setCnt, Pe.goto, State.dropPePulses,
      Pe.setEvt, Pe.setBufRelease] at hl ⊢
    exact .fill id len (s.adcQ.take len.toNat) (s.adcQ.drop len.toNat) hs h1 h2
      (List.take_append_drop _ _).symm (by simpa using hl)
  · cases h; exact .wait

theorem rowRStream_row (hs : s.pe.state = .rStream) (h1 : s.pe.len = some len)
    (h : rowRStream len s.dropPePulses = .next t) : PeRow s t := by
  obtain ⟨c, hc, h⟩ := need_eq_next.1 h
  split at h
  · rename_i hlt
    obtain ⟨b, hb, h⟩ := need_eq_next.1 h
    rcases peSend_eq_next.1 h with ⟨_, h⟩ | ⟨_, rfl⟩
    · cases h; exact .stream c len b hs hc h1 ((Cnt.lt_ofByte _ _).1 hlt) hb
    · exact .wait
  · split at h <;> cases h
    rename_i _ heq
    simp only [State.release, State.log, State.setPe, State.peGoto, State.dropPePulses, Pe.setEvt, Pe.setBufRelease,
      Pe.setBuf, Pe.setAlloc, Pe.setCnt, Pe.goto]
    exact .streamDone c len hs hc h1 ((Cnt.eq_ofByte _ _).1 heq)

theorem rowRFinalAck_row (hs : s.pe.state = .rFinalAck) (h : rowRFinalAck s.dropPePulses = .next t) : PeRow s t := by
  rcases peSend_eq_next.1 h with ⟨_, h⟩ | ⟨_, rfl⟩
  · cases h; exact .readFinalAck hs
  · exact .wait

/-- A byte taken in `WaitStart`. -/
theorem waitStart_row (hs : s.pe.state = .waitStart)
    (h : runFetched (tokenAt decodeWaitStart s.h2p) s.dropPePulses = .next t) : PeRow s t := by
  have hst : s.dropPePulses.pe.state = .waitStart := hs
  cases hq : s.h2p with
  | nil => rw [hq] at h; cases h; exact .wait
  | cons b q =>
    simp only [hq, tokenAt, runFetched, decodeWaitStart] at h
    split at h
    · subst b
      simp only [exec, execStart, hst, peTake, State.dropPePulses_h2p, hq] at h
      cases h; exact .start q hs hq
    · simp only [exec, execDiscard, hst, peTake, State.dropPePulses_h2p, hq] at h
      cases h; exact .discard b q hs ‹_› hq

/-- A byte taken at the stop position. -/
theorem stop_row (hs : s.pe.state = .wStop ∨ s.pe.state = .rStop)
    (h : runFetched (tokenAt decodeStop s.h2p) s.dropPePulses = .next t) : PeRow s t := by
  cases hq : s.h2p with
  | nil => rw [hq] at h; cases h; exact .wait
  | cons b q =>
    simp only [hq, tokenAt, runFetched, decodeStop] at h
    split at h
    · subst b
      rcases hs with hs | hs
      · have hst : s.dropPePulses.pe.state = .wStop := hs
        simp only [exec, execStop, hst, peTake, State.dropPePulses_h2p, hq] at h
        cases h; exact .writeStop q hs hq
      · have hst : s.dropPePulses.pe.state = .rStop := hs
        simp only [exec, execStop, hst, peTake, State.dropPePulses_h2p, hq] at h
        cases h; exact .readStop q hs hq
    · have h : (.next (((s.dropPePulses.setH2p q).log .pe (.rx b)).raise .stopByteError b) : Out) = .next t := by
        rw [← h]
        have hst : s.dropPePulses.pe.state = s.pe.state := rfl
        rcases hs with hs | hs <;> rw [hs] at hst <;>
          simp only [exec, execStopBad, hst, peTake, State.dropPePulses_h2p, hq]
      cases h
      simp only [State.raise, State.log, State.setH2p, State.setPe, State.peGoto, List.append_assoc]
      exact .stopBad b q hs ‹_› hq

end

/-- Every move of the peripheral that answers a next state is one of the rows. -/
theorem peRow_of_agentStep {s t : State} (h : agentStep .pe s = .next t) : PeRow s t := by
  have hst : s.dropPePulses.pe.state = s.pe.state := rfl
  have hh : runFetched s.pe.header s.dropPePulses = .next t → ∃ id len mode,
      s.pe.id = some id ∧ s.pe.len = some len ∧ s.pe.mode = some mode ∧
      peHeaderRow id len mode s.dropPePulses = .next t := by
    intro h
    rcases runFetched_peHeader h with ⟨r, hr⟩ | h
    · cases hr
    · exact h
  simp only [agentStep, peFetch] at h
  cases hs : s.pe.state <;> simp only [hs] at h hst
  case waitStart => exact waitStart_row hs h
  case readHeader => exact rowReadHeader_row hs h
  case wStop => exact stop_row (.inl hs) h
  case rStop => exact stop_row (.inr hs) h
  case halted => cases h; exact .wait
  all_goals
    obtain ⟨id, len, mode, h1, h2, h3, h⟩ := hh h
    simp only [peHeaderRow, hst] at h
  case validateBoard => exact rowValidateBoard_row hs h1 h
  case validateMode => exact rowValidateMode_row hs h3 h
  case allocateBuffer => exact rowAllocate_row hs h2 h3 h
  case sendNack => exact rowSendNack_row hs h
  case wHdrAck => exact rowWHdrAck_row hs h
  case wPayload => exact rowWPayload_row hs h2 h
  case wFinalAck => exact rowWFinalAck_row hs h
  case wDispatch => exact rowWDispatch_row hs h1 h2 h
  case rHdrAck => exact rowRHdrAck_row hs h
  case rFill => exact rowRFill_row hs h1 h2 h
  case rStream => exact rowRStream_row hs h2 h
  case rFinalAck => exact rowRFinalAck_row hs h

/-! ## The rows of the host -/

section
variable {s t : State} {len b : Byte} {q : List Byte}

theorem hdAck_header_row (hs : s.hd.state = .waitHdrAck) (hq : s.p2h = b :: q)
    (h : hdAckRow b s.dropHdPulses = .next t) : HdRow s t := by
  have hst : s.dropHdPulses.hd.state = .waitHdrAck := hs
  simp only [hdAckRow, hst] at h
  split at h
  · rename_i hb
    have hb : b = Config.ack := by simpa [isAck] using hb
    subst hb
    obtain ⟨m, hm, h⟩ := need_eq_next.1 h
    simp only [hdTakeAck, State.dropHdPulses_p2h, hq] at h
    cases h; exact .headerAck m q hs hq hm
  · simp only [hdTakeAck, State.dropHdPulses_p2h, hq] at h
    cases h
    simp only [State.hdReport, State.log, State.setP2h, State.setHd, State.hdGoto, List.append_assoc]
    exact .headerNack b q hs (by simpa [isAck] using ‹¬isAck b = true›) hq

theorem hdAck_final_row (hs : s.hd.state = .wWaitFinal ∨ s.hd.state = .rWaitFinal) (hq : s.p2h = b :: q)
    (h : hdAckRow b s.dropHdPulses = .next t) : HdRow s t := by
  have h : (.next (((((s.dropHdPulses.setP2h q).log .hd (.rx b)).setHd (s.dropHdPulses.hd.setLastAck (some b))).hdReport
      (if isAck b then .success else .stopBitsError)).hdGoto .idle) : Out) = .next t := by
    rw [← h]
    have hst : s.dropHdPulses.hd.state = s.hd.state := rfl
    rcases hs with hs | hs <;> rw [hs] at hst <;> simp only [hdAckRow, hst, hdTakeAck, State.dropHdPulses_p2h, hq]
  cases h
  simp only [State.hdReport, State.log, State.setP2h, State.setHd, State.hdGoto, List.append_assoc, isAck, beq_iff_eq]
  exact .final b q hs hq

/-- A byte taken at an acknowledgment position. -/
theorem hdToken_row (hs : s.hd.state = .waitHdrAck ∨ s.hd.state = .wWaitFinal ∨ s.hd.state = .rWaitFinal)
    (h : runFetched (tokenAt decodeAck s.p2h) s.dropHdPulses = .next t) : HdRow s t := by
  cases hq : s.p2h with
  | nil => rw [hq] at h; cases h; exact .wait
  | cons b q =>
    simp only [hq, tokenAt, runFetched] at h
    rw [exec_decodeAck] at h
    rcases hs with hs | hs
    · exact hdAck_header_row hs hq h
    · exact hdAck_final_row hs hq h

theorem rowIdle_row (hs : s.hd.state = .idle) (hf : (s.hd.hfs.readSeq 0 8).isSome)
    (h : rowIdle s.dropHdPulses = .next t) : HdRow s t := by
  unfold rowIdle at h
  split at h <;> cases h
  · exact .opStart hs ‹_› hf
  · exact .wait

theorem rowRetryPrompt_row (hs : s.hd.state = .retryPrompt) (h : rowRetryPrompt s.dropHdPulses = .next t) : HdRow s t := by
  unfold rowRetryPrompt at h
  split at h <;> cases h
  · exact .opRetry hs ‹_›
  · exact .wait

theorem rowSendHeader_row (hs : s.hd.state = .sendHeader) (h : rowSendHeader s.dropHdPulses = .next t) : HdRow s t := by
  obtain ⟨c, hc, h⟩ := need_eq_next.1 h
  split at h
  · obtain ⟨b, hb, h⟩ := need_eq_next.1 h
    rcases hdSend_eq_next.1 h with ⟨_, h⟩ | ⟨_, rfl⟩
    · split at h
      · cases h; exact .header c b hs hc ‹_› hb
      · cases h
        have h7 : c.toNat = 7 := by omega
        have hb' : s.hd.hfs.read c.toNat = some b := hb
        exact .headerLast c b hs hc h7 (h7 ▸ hb')
    · exact .wait
  · cases h

theorem rowWSendPayload_row (hs : s.hd.state = .wSendPayload) (hl : s.hd.hfs.read 2 = some len)
    (h : rowWSendPayload len s.dropHdPulses = .next t) : HdRow s t := by
  obtain ⟨c, hc, h⟩ := need_eq_next.1 h
  split at h
  · rename_i hlt
    have hlt := (Cnt.lt_ofByte _ _).1 hlt
    obtain ⟨b, hb, h⟩ := need_eq_next.1 h
    rw [hfsPayloadAddr_eq (by have := len.isLt; omega)] at hb
    rcases hdSend_eq_next.1 h with ⟨_, h⟩ | ⟨_, rfl⟩
    · cases h; exact .payload c len b hs hc hl hlt hb
    · exact .wait
  · split at h <;> cases h
    exact .payloadDone c len hs hc hl ((Cnt.eq_ofByte _ _).1 ‹_›)

theorem rowWSendStop_row (hs : s.hd.state = .wSendStop) (hl : s.hd.hfs.read 2 = some len)
    (h : rowWSendStop len s.dropHdPulses = .next t) : HdRow s t := by
  obtain ⟨b, hb, h⟩ := need_eq_next.1 h
  rw [hfsStopAddr_eq] at hb
  rcases hdSend_eq_next.1 h with ⟨_, h⟩ | ⟨_, rfl⟩
  · cases h; exact .writeStop len b hs hl hb
  · exact .wait

theorem rowRSendStop_row (hs : s.hd.state = .rSendStop) (hl : s.hd.hfs.read 2 = some len)
    (h : rowRSendStop len s.dropHdPulses = .next t) : HdRow s t := by
  obtain ⟨b, hb, h⟩ := need_eq_next.1 h
  rw [hfsStopAddr_eq] at hb
  rcases hdSend_eq_next.1 h with ⟨_, h⟩ | ⟨_, rfl⟩
  · cases h; exact .readStop len b hs hl hb
  · exact .wait

theorem rowRRecvPayload_row (hs : s.hd.state = .rRecvPayload) (hl : s.hd.hfs.read 2 = some len)
    (h : rowRRecvPayload len s.dropHdPulses = .next t) : HdRow s t := by
  obtain ⟨c, hc, h⟩ := need_eq_next.1 h
  split at h
  · rename_i hlt
    rcases hdRecv_eq_next.1 h with ⟨b, q, hq, h⟩ | ⟨_, rfl⟩
    · cases h; exact .receive c len b q hs hc hl ((Cnt.lt_ofByte _ _).1 hlt) hq
    · exact .wait
  · split at h <;> cases h
    exact .receiveDone c len hs hc hl ((Cnt.eq_ofByte _ _).1 ‹_›)

end

/-- Every move of the host that answers a next state is one of the rows. -/
theorem hdRow_of_agentStep {s t : State} (h : agentStep .hd s = .next t) : HdRow s t := by
  have hst : s.dropHdPulses.hd.state = s.hd.state := rfl
  have hh : runFetched s.hd.stored s.dropHdPulses = .next t → ∃ len,
      s.hd.hfs.read 2 = some len ∧ (s.hd.hfs.readSeq 0 8).isSome ∧ hdStoreRow len s.dropHdPulses = .next t := by
    intro h
    rcases runFetched_hdStored h with ⟨r, hr⟩ | h
    · cases hr
    · exact h
  simp only [agentStep, hdFetch] at h
  cases hs : s.hd.state <;> simp only [hs] at h hst
  case waitHdrAck => exact hdToken_row (.inl hs) h
  case wWaitFinal => exact hdToken_row (.inr (.inl hs)) h
  case rWaitFinal => exact hdToken_row (.inr (.inr hs)) h
  case fatal => cases h; exact .wait
  case idle =>
    split at h
    · obtain ⟨len, h1, h2, h⟩ := hh h
      simp only [hdStoreRow, hst] at h
      exact rowIdle_row hs h2 h
    · cases h; exact .wait
  case retryPrompt =>
    split at h
    · obtain ⟨len, h1, h2, h⟩ := hh h
      simp only [hdStoreRow, hst] at h
      exact rowRetryPrompt_row hs h
    · cases h; exact .wait
  all_goals
    obtain ⟨len, h1, h2, h⟩ := hh h
    simp only [hdStoreRow, hst] at h
  case sendHeader => exact rowSendHeader_row hs h
  case wSendPayload => exact rowWSendPayload_row hs h1 h
  case wSendStop => exact rowWSendStop_row hs h1 h
  case rSendStop => exact rowRSendStop_row hs h1 h
  case rRecvPayload => exact rowRRecvPayload_row hs h1 h

/-! ## The environment -/

/-- When the environment may delete a byte of a queue (U18, R293). -/
theorem State.mayLose_iff {s : State} (d : Dir) : s.mayLose d = true ↔ s.lossy = true ∨ s.params.backPressure = false ∧
    ∃ n, s.rxDepth d = some n ∧ n < (s.queue d).length ∧ (n < rxNeeded d ∨ s.receives d = false) := by
  unfold State.mayLose
  cases s.params.backPressure <;> cases s.rxDepth d <;>
    simp [Bool.or_eq_true, Bool.and_eq_true, decide_eq_true_eq]

/-- A deletion that is not admitted is refused. -/
theorem envStep_chDelete_refused {s : State} {d : Dir} (i : Nat) (h : ¬s.mayLose d = true) :
    envStep (.chDelete d i) s = .refused .channelFaultNotAdmitted := if_neg h

/-- One move of the environment that answers a next state. -/
inductive EnvRow (s : State) : EnvMove → State → Prop
  | resetPeHeld (ha : s.pe.alloc = true) :
    EnvRow s (.reset .pe) { s with trace := s.trace ++ [(.pe, .release)], pe := { Pe.reset with bufRelease := true } }
  | resetPeFree (ha : s.pe.alloc = false) : EnvRow s (.reset .pe) { s with pe := Pe.reset }
  | resetHd :
    EnvRow s (.reset .hd) { s with opStart := false, opRetry := false, hd := Hd.resetKeeping s.hd.hfs }
  | xportPeHalted (hs : s.pe.state = .halted) : EnvRow s (.xportErr .pe) s
  | xportPeHeld (hs : s.pe.state ≠ .halted) (ha : s.pe.alloc = true) :
    EnvRow s (.xportErr .pe) { s with
      trace := s.trace ++ [(.pe, .err .transportError none), (.pe, .release)],
      pe := { s.pe with
        state := .halted, cnt := none, alloc := false, buf := [], evt := some .transportError, bufRelease := true } }
  | xportPeFree (hs : s.pe.state ≠ .halted) (ha : s.pe.alloc = false) :
    EnvRow s (.xportErr .pe) { s with
      trace := s.trace ++ [(.pe, .err .transportError none)],
      pe := { s.pe with state := .halted, cnt := none, evt := some .transportError, bufRelease := false } }
  | xportHdFatal (hs : s.hd.state = .fatal) : EnvRow s (.xportErr .hd) s
  | xportHd (hs : s.hd.state ≠ .fatal) :
    EnvRow s (.xportErr .hd) { s with
      opStart := false, opRetry := false, trace := s.trace ++ [(.hd, .report .transportFatal)],
      hd := { s.hd with state := .fatal, cnt := none, rpt := some .transportFatal } }
  | opStart (hs : s.hd.state = .idle) : EnvRow s (.op .start) { s with opStart := true }
  | opRetry (hs : s.hd.state = .retryPrompt) : EnvRow s (.op .retry) { s with opRetry := true }
  | opIgnored (k : OpKind) : EnvRow s (.op k) s
  | loadStore (bytes : List Byte) (len : Byte) (hs : s.hd.state = .idle) (hl : bytes[2]? = some len)
    (h1 : 9 + len.toNat ≤ bytes.length) (h2 : bytes.length ≤ Config.hfsCap) :
    EnvRow s (.loadStore bytes) { s with hd := { s.hd with hfs := Memory.ofBytes bytes } }
  | allocAnswer (ok : Bool) : EnvRow s (.allocAnswer ok) { s with allocQ := s.allocQ ++ [ok] }
  | adcSample (b : Byte) : EnvRow s (.adcSample b) { s with adcQ := s.adcQ ++ [b] }
  | devwReturn : EnvRow s .devwReturn { s with devwQ := s.devwQ + 1 }
  | chDelete (d : Dir) (i : Nat) (hm : s.mayLose d = true) :
    EnvRow s (.chDelete d i) (s.setQueue d ((s.queue d).eraseIdx i))
  | chAlter (d : Dir) (i : Nat) (b : Byte) (hm : s.lossy = true) :
    EnvRow s (.chAlter d i b) (s.setQueue d ((s.queue d).set i b))
  | chInsert (d : Dir) (i : Nat) (b : Byte) (hm : s.lossy = true) :
    EnvRow s (.chInsert d i b) (s.setQueue d ((s.queue d).insertIdx i b))

theorem isFrameDefinition_iff {bytes : List Byte} : isFrameDefinition bytes = true ↔
    ∃ len, bytes[2]? = some len ∧ 9 + len.toNat ≤ bytes.length ∧ bytes.length ≤ Config.hfsCap := by
  unfold isFrameDefinition
  cases bytes[2]? <;> simp

theorem xportErrPe_row (s : State) : EnvRow s (.xportErr .pe) s.xportErrPe := by
  by_cases hs : s.pe.state = .halted
  · have : s.xportErrPe = s := by simp [State.xportErrPe, hs]
    rw [this]; exact .xportPeHalted hs
  · have : s.xportErrPe = s.dropPePulses.peTransportError := by
      unfold State.xportErrPe; split
      · exact absurd ‹_› hs
      · rfl
    rw [this, State.peTransportError]
    cases ha : s.pe.alloc with
    | true =>
      rw [State.releaseIfHeld_of_held (by simpa using ha)]
      simp only [State.peGoto, State.release, State.log, State.setPe, State.dropPePulses, Pe.setEvt, Pe.setBufRelease,
        Pe.setBuf, Pe.setAlloc, Pe.setCnt, Pe.goto, List.append_assoc]
      exact .xportPeHeld hs ha
    | false =>
      rw [State.releaseIfHeld_of_not (by simpa using ha)]
      simp only [State.peGoto, State.log, State.setPe, State.dropPePulses, Pe.setEvt, Pe.setBufRelease, Pe.setCnt, Pe.goto]
      exact .xportPeFree hs ha

theorem operator_row (k : OpKind) (s : State) : EnvRow s (.op k) (s.operator k) := by
  unfold State.operator
  split
  · exact .opStart ‹_›
  · exact .opRetry ‹_›
  · exact .opIgnored _

/-- Every move of the environment that answers a next state is one of these. -/
theorem envRow_of_envStep {s t : State} {e : EnvMove} (h : envStep e s = .next t) : EnvRow s e t := by
  unfold envStep at h
  split at h
  · cases h
    unfold State.resetPe
    cases ha : s.pe.alloc
    · exact .resetPeFree ha
    · exact .resetPeHeld ha
  · cases h; exact .resetHd
  · cases h; exact xportErrPe_row s
  · cases h
    unfold State.xportErrHd
    split
    · exact .xportHdFatal ‹_›
    · exact .xportHd ‹_›
  · cases h; exact operator_row _ s
  · split at h
    · split at h <;> cases h
      rename_i hf
      obtain ⟨len, hl, h1, h2⟩ := isFrameDefinition_iff.1 hf
      exact .loadStore _ len ‹_› hl h1 h2
    · cases h
  · cases h; exact .allocAnswer _
  · cases h; exact .adcSample _
  · cases h; exact .devwReturn
  · split at h <;> cases h
    exact .chDelete _ _ ‹_›
  · split at h <;> cases h
    exact .chAlter _ _ _ ‹_›
  · split at h <;> cases h
    exact .chInsert _ _ _ ‹_›

/-- No move of the environment faults. -/
theorem envStep_ne_fault (e : EnvMove) (s : State) (r : Fault) : envStep e s ≠ .fault r := by
  intro h
  unfold envStep at h
  split at h <;> (try split at h) <;> (try split at h) <;> cases h

/-! ## One step -/

/-- The state a step acts on: the script's head taken, or the turn passed. -/
def State.afterChoice (s : State) : State :=
  match s.script with
  | _ :: ms => s.setScript ms
  | [] => s.setTurn s.turn.other

/-- The choice of a move changes nothing but `script` and `turn`. -/
theorem State.afterChoice_eq (s : State) : ∃ ms a, s.afterChoice = { s with script := ms, turn := a } := by
  unfold State.afterChoice
  split
  · exact ⟨_, s.turn, rfl⟩
  · exact ⟨s.script, _, rfl⟩

@[simp] theorem State.afterChoice_params (s : State) : s.afterChoice.params = s.params := by
  unfold State.afterChoice; split <;> rfl

@[simp] theorem State.afterChoice_pe (s : State) : s.afterChoice.pe = s.pe := by
  unfold State.afterChoice; split <;> rfl

@[simp] theorem State.afterChoice_hd (s : State) : s.afterChoice.hd = s.hd := by
  unfold State.afterChoice; split <;> rfl

@[simp] theorem State.afterChoice_h2p (s : State) : s.afterChoice.h2p = s.h2p := by
  unfold State.afterChoice; split <;> rfl

@[simp] theorem State.afterChoice_p2h (s : State) : s.afterChoice.p2h = s.p2h := by
  unfold State.afterChoice; split <;> rfl

@[simp] theorem State.afterChoice_allocQ (s : State) : s.afterChoice.allocQ = s.allocQ := by
  unfold State.afterChoice; split <;> rfl

@[simp] theorem State.afterChoice_adcQ (s : State) : s.afterChoice.adcQ = s.adcQ := by
  unfold State.afterChoice; split <;> rfl

@[simp] theorem State.afterChoice_devwQ (s : State) : s.afterChoice.devwQ = s.devwQ := by
  unfold State.afterChoice; split <;> rfl

@[simp] theorem State.afterChoice_opStart (s : State) : s.afterChoice.opStart = s.opStart := by
  unfold State.afterChoice; split <;> rfl

@[simp] theorem State.afterChoice_opRetry (s : State) : s.afterChoice.opRetry = s.opRetry := by
  unfold State.afterChoice; split <;> rfl

@[simp] theorem State.afterChoice_trace (s : State) : s.afterChoice.trace = s.trace := by
  unfold State.afterChoice; split <;> rfl

/-- A step is a move of the environment, from the script's head, or a move of an engine. -/
theorem step_cases (s : State) :
    (∃ e ms, s.script = .env e :: ms ∧ step s = envStep e s.afterChoice) ∨
    (∃ a, step s = agentStep a s.afterChoice ∧ ∀ e, s.script.head? ≠ some (.env e)) := by
  cases hs : s.script with
  | nil => exact .inr ⟨s.turn, by simp [step, State.afterChoice, hs], by simp⟩
  | cons m ms =>
    cases m with
    | run a => exact .inr ⟨a, by simp [step, State.afterChoice, hs, moveStep], by simp⟩
    | env e => exact .inl ⟨e, ms, rfl, by simp [step, State.afterChoice, hs, moveStep]⟩

end Sys2Proof.Machine
end

