-- ==== Sys2Proof/Laws/Trace.lean ====
section
/-! SUPPORT. The views of the trace over an appended piece of it: bytes sent and received, allocations, releases, last sample. -/

namespace Sys2Proof.Machine

variable (a a' : Agent) (tr tr' : List (Agent × Event))

@[simp] theorem sentBy_nil : sentBy a [] = [] := rfl
@[simp] theorem sentBy_append : sentBy a (tr ++ tr') = sentBy a tr ++ sentBy a tr' := List.filterMap_append
@[simp] theorem sentBy_tx_self (b : Byte) : sentBy a ((a, .tx b) :: tr) = b :: sentBy a tr := by simp [sentBy]
@[simp] theorem sentBy_pe_of_hd (e : Event) : sentBy .pe ((.hd, e) :: tr) = sentBy .pe tr := by cases e <;> rfl
@[simp] theorem sentBy_hd_of_pe (e : Event) : sentBy .hd ((.pe, e) :: tr) = sentBy .hd tr := by cases e <;> rfl
@[simp] theorem sentBy_rx (b : Byte) : sentBy a ((a', .rx b) :: tr) = sentBy a tr := rfl
@[simp] theorem sentBy_alloc (n : Byte) (ok : Bool) : sentBy a ((a', .alloc n ok) :: tr) = sentBy a tr := rfl
@[simp] theorem sentBy_release : sentBy a ((a', .release) :: tr) = sentBy a tr := rfl
@[simp] theorem sentBy_devw (k : Capability) (d : DevId) (bs : List Byte) : sentBy a ((a', .devw k d bs) :: tr) = sentBy a tr := rfl
@[simp] theorem sentBy_devr (k : Capability) (d : DevId) (n : Byte) (bs : List Byte) :
    sentBy a ((a', .devr k d n bs) :: tr) = sentBy a tr := rfl
@[simp] theorem sentBy_err (c : Cause) (o : Option Byte) : sentBy a ((a', .err c o) :: tr) = sentBy a tr := rfl
@[simp] theorem sentBy_op (k : OpKind) : sentBy a ((a', .op k) :: tr) = sentBy a tr := rfl
@[simp] theorem sentBy_report (r : Report) : sentBy a ((a', .report r) :: tr) = sentBy a tr := rfl

@[simp] theorem receivedBy_nil : receivedBy a [] = [] := rfl
@[simp] theorem receivedBy_append : receivedBy a (tr ++ tr') = receivedBy a tr ++ receivedBy a tr' :=
  List.filterMap_append
@[simp] theorem receivedBy_rx_self (b : Byte) : receivedBy a ((a, .rx b) :: tr) = b :: receivedBy a tr := by
  simp [receivedBy]
@[simp] theorem receivedBy_pe_of_hd (e : Event) : receivedBy .pe ((.hd, e) :: tr) = receivedBy .pe tr := by cases e <;> rfl
@[simp] theorem receivedBy_hd_of_pe (e : Event) : receivedBy .hd ((.pe, e) :: tr) = receivedBy .hd tr := by cases e <;> rfl
@[simp] theorem receivedBy_tx (b : Byte) : receivedBy a ((a', .tx b) :: tr) = receivedBy a tr := rfl
@[simp] theorem receivedBy_alloc (n : Byte) (ok : Bool) : receivedBy a ((a', .alloc n ok) :: tr) = receivedBy a tr := rfl
@[simp] theorem receivedBy_release : receivedBy a ((a', .release) :: tr) = receivedBy a tr := rfl
@[simp] theorem receivedBy_devw (k : Capability) (d : DevId) (bs : List Byte) :
    receivedBy a ((a', .devw k d bs) :: tr) = receivedBy a tr := rfl
@[simp] theorem receivedBy_devr (k : Capability) (d : DevId) (n : Byte) (bs : List Byte) :
    receivedBy a ((a', .devr k d n bs) :: tr) = receivedBy a tr := rfl
@[simp] theorem receivedBy_err (c : Cause) (o : Option Byte) : receivedBy a ((a', .err c o) :: tr) = receivedBy a tr := rfl
@[simp] theorem receivedBy_op (k : OpKind) : receivedBy a ((a', .op k) :: tr) = receivedBy a tr := rfl
@[simp] theorem receivedBy_report (r : Report) : receivedBy a ((a', .report r) :: tr) = receivedBy a tr := rfl

@[simp] theorem allocated_append : allocated (tr ++ tr') = allocated tr + allocated tr' := List.countP_append
@[simp] theorem released_append : released (tr ++ tr') = released tr + released tr' := List.countP_append

@[simp] theorem lastSample_append_devr (k : Capability) (d : DevId) (n : Byte) (bs : List Byte) :
    lastSample (tr ++ [(a, .devr k d n bs)]) = bs := by simp [lastSample]

/-- Events other than a call of the read capability leave the last sample alone. -/
theorem lastSample_append_of_not (h : ∀ x ∈ tr', ∀ k d n bs, x.2 ≠ .devr k d n bs) :
    lastSample (tr ++ tr') = lastSample tr := by
  unfold lastSample
  rw [List.foldl_append]
  generalize List.foldl _ [] tr = l
  induction tr' with
  | nil => rfl
  | cons x tr' ih =>
    obtain ⟨a, e⟩ := x
    have hx := h (a, e) (List.mem_cons_self ..)
    have htl : ∀ y ∈ tr', ∀ k d n bs, y.2 ≠ .devr k d n bs := fun y hy => h y (List.mem_cons_of_mem _ hy)
    cases e <;> first | exact ih htl | exact absurd rfl (hx _ _ _ _)

end Sys2Proof.Machine
end

