-- ==== Sys2Proof/Tests/Slice0.lean ====
section
/-! SUPPORT. Tests of one decode or one step each, with the expected values of 95_test_vectors.md and of the rules named, and for every
obligation that has hypotheses a concrete state and operands that meet them all. -/

namespace Sys2Proof.Tests

open Sys2Proof Sys2Proof.Machine

/-! ## Small states -/

/-- A condition on the next state; false where the machine stops. -/
def after (o : Out) (p : State → Bool) : Bool :=
  match o with
  | .next t => p t
  | .fault _ => false
  | .refused _ => false

/-- Whether the machine stops with this fault. -/
def faults (o : Out) (f : Fault) : Bool :=
  match o with
  | .fault f' => f' == f
  | .next _ => false
  | .refused _ => false

/-- Whether the model refuses the move with this reason. -/
def refuses (o : Out) (r : Refusal) : Bool :=
  match o with
  | .refused r' => r' == r
  | .next _ => false
  | .fault _ => false

/-- No reserved byte set. -/
def rsv0 : Rsv := ⟨0, 0, 0, 0⟩

/-- The peripheral in a state, a header in its registers, no buffer held. -/
def peAt (st : PeState) (id len mode : Byte) : State :=
  { State.reset with
    pe := { Pe.reset with
      state := st, id := some id, len := some len, mode := some mode,
      rsv0 := some 0, rsv1 := some 0, rsv2 := some 0, rsv3 := some 0 } }

/-- The same with the buffer held, some bytes in it, and a counter. -/
def peHolding (st : PeState) (id len mode : Byte) (buf : Memory) (cnt : Option Cnt) : State :=
  { peAt st id len mode with
    pe := { (peAt st id len mode).pe with alloc := true, buf := buf, cnt := cnt } }

/-- The peripheral in a state that needs no header. -/
def peBare (st : PeState) : State := { State.reset with pe := { Pe.reset with state := st } }

/-- The host in a state with a frame stored. -/
def hdAt (st : HdState) (bytes : List Byte) (cnt : Option Cnt) : State :=
  { State.reset with hd := { Hd.resetKeeping (Memory.ofBytes bytes) with state := st, cnt := cnt } }

/-- A stored Write of one byte to the LED, and a stored Read of one byte (V67). -/
def writeStore : List Byte := [0xFE, 0x00, 0x01, 0x02, 0, 0, 0, 0, 0x5A, 0x01]
def readStore : List Byte := [0xFE, 0x03, 0x01, 0x01, 0, 0, 0, 0, 0x00, 0x01]

/-! ## WellFormed refuses an ill-formed operand of each catch-all row (R91, R92, R93) -/

theorem test_wf_hdrBadMode_read : WellFormed (.hdrBadMode 0 0 0x01 rsv0) = false := by decide
theorem test_wf_hdrBadMode_write : WellFormed (.hdrBadMode 3 0 0x02 rsv0) = false := by decide
theorem test_wf_hdrBadBoard : WellFormed (.hdrBadBoard 0x03 0 0x02 rsv0) = false := by decide
theorem test_wf_discard : WellFormed (.discard 0xFE) = false := by decide
theorem test_wf_stopBad : WellFormed (.stopBad 0x01) = false := by decide
theorem test_wf_nackOther_ack : WellFormed (.nackOther 0x0F) = false := by decide
theorem test_wf_nackOther_nack : WellFormed (.nackOther 0xF0) = false := by decide
theorem test_wf_hostWrite : WellFormed (.hostWrite 0xFE 0 0 0x01 rsv0) = false := by decide

/-! ## Decoding: words written out from R81, R91, R92, R93 -/

theorem test_decode_readAdc : -- S1's header
    decode .peHeader [0xFE, 0x01, 0x08, 0x01, 0, 0, 0, 0] = .ok (.readAdc 1 0x08 rsv0) [] := by decide
theorem test_decode_writeLed : -- S2's header, with the first payload byte after it
    decode .peHeader [0xFE, 0x00, 0x08, 0x02, 0, 0, 0, 0, 0x01] = .ok (.writeLed 0x08 rsv0) [0x01] := by decide
theorem test_decode_writeLcd1 : -- S3's header
    decode .peHeader [0xFE, 0x01, 0x10, 0x02, 0, 0, 0, 0] = .ok (.writeLcd1 0x10 rsv0) [] := by decide
theorem test_decode_writeLcd2 : -- V21's header
    decode .peHeader [0xFE, 0x02, 0x01, 0x02, 0, 0, 0, 0] = .ok (.writeLcd2 0x01 rsv0) [] := by decide
theorem test_decode_writeLcd3 : -- V22's header
    decode .peHeader [0xFE, 0x03, 0x01, 0x02, 0, 0, 0, 0] = .ok (.writeLcd3 0x01 rsv0) [] := by decide
theorem test_decode_hdrBadMode : -- V6: the 0xFE at offset 3 is a mode
    decode .peHeader [0xFE, 0x01, 0x02, 0xFE, 0, 0, 0, 0] = .ok (.hdrBadMode 1 0x02 0xFE rsv0) [] := by decide
theorem test_decode_hdrBadBoard : -- V7: bad board and bad mode is a bad board
    decode .peHeader [0xFE, 0x04, 0x08, 0x03, 0, 0, 0, 0] = .ok (.hdrBadBoard 0x04 0x08 0x03 rsv0) [] := by decide
theorem test_decode_reserved : -- V20: the reserved bytes stand in their order
    decode .peHeader [0xFE, 0x00, 0x01, 0x02, 0xDE, 0xAD, 0xBE, 0xEF] =
      .ok (.writeLed 0x01 ⟨0xDE, 0xAD, 0xBE, 0xEF⟩) [] := by decide
theorem test_decode_start : decode .peWaitStart [0xFE, 0xFE] = .ok .start [0xFE] := by decide
theorem test_decode_discard : decode .peWaitStart [0x0F] = .ok (.discard 0x0F) [] := by decide
theorem test_decode_stop : decode .peStop [0x01] = .ok .stop [] := by decide
theorem test_decode_stopBad : decode .peStop [0xFE] = .ok (.stopBad 0xFE) [] := by decide -- V19
theorem test_decode_ack : decode .hdAck [0x0F] = .ok .ack [] := by decide
theorem test_decode_nack : decode .hdAck [0xF0] = .ok .nack [] := by decide
theorem test_decode_nackOther : decode .hdAck [0x00] = .ok (.nackOther 0x00) [] := by decide -- V54
theorem test_decode_hostRead : -- V67's store
    decode .hdFrameStore [0xFE, 0x03, 0x01, 0x01, 0, 0, 0, 0] = .ok (.hostRead 0xFE 0x03 0x01 rsv0) [] := by decide
theorem test_decode_hostWrite : -- V62's store: mode 03 takes the Write branch on the host
    decode .hdFrameStore [0xFE, 0x00, 0x01, 0x03, 0, 0, 0, 0] = .ok (.hostWrite 0xFE 0x00 0x01 0x03 rsv0) [] := by
  decide
theorem test_decode_no_start : decode .peHeader [0x00, 0, 0, 0, 0, 0, 0, 0] = .reject .noStartMarker := by decide
theorem test_decode_short : decode .peHeader [0xFE, 0x00, 0x08] = .reject .truncated := by decide -- V38

/-- R11: offset 0 is the most significant byte of `H`. -/
theorem test_headerWord : headerWord 0xFE 0x01 0x10 0x02 rsv0 = 0xFE01100200000000 := by decide

/-! ## Codec, registry, configuration -/

theorem test_makeHeader : -- R116's example
    codecEncode (makeHeader 0x00 1 0x10 0x02 rsv0) = [0xFE, 0x01, 0x10, 0x02, 0, 0, 0, 0] := by decide
theorem test_codec_framingError : codecDecode [0x01, 0x10, 0x02] = .framingError := by decide -- R122
theorem test_deviceOf : deviceOf 0xFF = 3 := by decide -- R118
theorem test_lcd_line2 : -- S3, with four bytes on line 2
    lcdLine 1 [0xA0, 0xA1, 0xA2, 0xA3, 0xA4, 0xA5, 0xA6, 0xA7, 0xA8, 0xA9, 0xAA, 0xAB] =
      [0xA8, 0xA9, 0xAA, 0xAB] := by decide
theorem test_config_accepted : -- U17
    Config.accepts Config.bid Config.bufCap Config.hrxCap Config.cntW = true := by decide
theorem test_config_bid_refused : Config.accepts 0x01 255 255 9 = false := by decide
theorem test_reset_memory_wf : State.reset.pe.buf.wf ∧ State.reset.hd.hfs.wf ∧ State.reset.hd.hrx.wf := by
  refine ⟨?_, ?_, ?_⟩ <;> exact List.Pairwise.nil

theorem test_rsvLen : -- R8: RSV_LEN = 4, the header bytes after the four named ones
    Config.rsvLen = 4 ∧ Config.hdrLen = 4 + Config.rsvLen ∧ (encode (.writeLed 0 rsv0)).length = Config.hdrLen := by decide

/-! ## The words the host places -/

theorem test_place_header : after (step (State.reset.withFetchWord 64 0xFE04080300000000)) (fun t =>
    t.pe.state == .sendNack && t.trace == [(.pe, .err .badBoardId (some 0x04))]) = true := by decide
theorem test_place_start : after (step (State.reset.withFetchWord 8 0xFE)) (fun t =>
    t.pe.state == .readHeader && t.pe.cnt == some 1) = true := by decide
theorem test_place_ack : after (step (State.reset.withFetchWord 8 0x0F)) (fun t =>
    t.hd.lastAck == some 0x0F && t.hd.state == .wSendPayload) = true := by decide
theorem test_place_store : after (step (State.reset.withFetchWord 64 0x0000000100000000)) (fun t =>
    t.hd.state == .sendHeader && t.hd.cnt == some 0) = true := by decide

/-! ## One step of each instruction -/

theorem test_readAdc_fill : -- V2 step 13
    after (exec (.readAdc 3 0x02 rsv0)
      { peHolding .rFill 0x03 0x02 0x01 [] none with adcQ := [0x55, 0x66, 0x77] }) (fun t =>
        t.pe.state == .rStream && t.pe.cnt == some 0 && t.pe.buf == [(0, 0x55), (1, 0x66)] && t.adcQ == [0x77] &&
        t.trace == [(.pe, .devr .adc 3 2 [0x55, 0x66])]) = true := by decide
theorem test_readAdc_release : -- V2 step 16: the release comes before the stop byte
    after (exec (.readAdc 3 0x02 rsv0)
      (peHolding .rStream 0x03 0x02 0x01 [(0, 0x55), (1, 0x66)] (some 2))) (fun t =>
        t.pe.state == .rStop && t.pe.alloc == false && t.pe.buf == [] && t.trace == [(.pe, .release)]) = true := by decide
theorem test_writeLed_payload : -- V1: the byte goes to BUF[0]
    after (exec (.writeLed 0x01 rsv0)
      { peHolding .wPayload 0x00 0x01 0x02 [] (some 0) with h2p := [0x5A, 0x01] }) (fun t =>
        t.pe.buf == [(0, 0x5A)] && t.pe.cnt == some 1 && t.h2p == [0x01]) = true := by decide
theorem test_writeLed_dispatch : -- V1 step 17
    after (exec (.writeLed 0x01 rsv0)
      { peHolding .wDispatch 0x00 0x01 0x02 [(0, 0x5A)] none with devwQ := 1 }) (fun t =>
        t.pe.state == .waitStart && t.pe.alloc == false && t.pe.id == none && t.pe.evt == some .frameDoneWrite &&
        t.trace == [(.pe, .devw .led 0 [0x5A]), (.pe, .release)]) = true := by decide
theorem test_writeLcd1_zero : -- V15's shape: nothing is received when the length is 0
    after (exec (.writeLcd1 0x00 rsv0) { peHolding .wPayload 0x01 0x00 0x02 [] (some 0) with h2p := [0x01] }) (fun t =>
        t.pe.state == .wStop && t.h2p == [0x01]) = true := by decide
theorem test_writeLcd2_dispatch : -- V21
    after (exec (.writeLcd2 0x01 rsv0)
      { peHolding .wDispatch 0x02 0x01 0x02 [(0, 0x11)] none with devwQ := 1 }) (fun t =>
        t.trace == [(.pe, .devw .lcd 2 [0x11]), (.pe, .release)]) = true := by decide
theorem test_writeLcd3_alloc : -- R158, R159
    after (exec (.writeLcd3 0x01 rsv0) { peAt .allocateBuffer 0x03 0x01 0x02 with allocQ := [true] }) (fun t =>
        t.pe.state == .wHdrAck && t.pe.alloc == true && t.trace == [(.pe, .alloc 1 true)]) = true := by decide
theorem test_hdrBadMode_raise : -- V4
    after (exec (.hdrBadMode 0 0x08 0x03 rsv0) (peAt .validateMode 0x00 0x08 0x03)) (fun t =>
        t.pe.state == .sendNack && t.pe.evt.map Status.code == some 0x2) = true := by decide
theorem test_hdrBadBoard_nack : -- S4
    after (exec (.hdrBadBoard 0x04 0x08 0x02 rsv0) (peAt .sendNack 0x04 0x08 0x02)) (fun t =>
        t.p2h == [0xF0] && t.pe.state == .waitStart && t.pe.len == none && t.trace == [(.pe, .tx 0xF0)]) = true := by decide
theorem test_start : -- R153
    after (exec .start { State.reset with h2p := [0xFE, 0xFE] }) (fun t =>
        t.pe.state == .readHeader && t.pe.cnt == some 1 && t.h2p == [0xFE]) = true := by decide
theorem test_discard : -- V27
    after (exec (.discard 0x0F) { State.reset with h2p := [0x0F, 0xFE] }) (fun t =>
        t.pe.state == .waitStart && t.h2p == [0xFE] && t.p2h == []) = true := by decide
theorem test_stop_write : -- V1 step 15
    after (exec .stop { peHolding .wStop 0x00 0x01 0x02 [(0, 0x5A)] none with h2p := [0x01] }) (fun t =>
        t.pe.state == .wFinalAck && t.pe.alloc == true) = true := by decide
theorem test_stop_read : -- V2 step 17
    after (exec .stop { peAt .rStop 0x03 0x02 0x01 with h2p := [0x01] }) (fun t =>
        t.pe.state == .rFinalAck) = true := by decide
theorem test_stopBad_write : -- V17: the buffer is still held when the cause is raised
    after (exec (.stopBad 0xFF) { peHolding .wStop 0x00 0x02 0x02 [(0, 0xAA), (1, 0xBB)] none with h2p := [0xFF] })
      (fun t => t.pe.state == .sendNack && t.pe.alloc == true &&
        t.trace == [(.pe, .rx 0xFF), (.pe, .err .stopByteError (some 0xFF))]) = true := by decide
theorem test_stopBad_read : -- V29
    after (exec (.stopBad 0x00) { peAt .rStop 0x03 0x02 0x01 with h2p := [0x00] }) (fun t =>
        t.pe.state == .sendNack && t.pe.evt.map Status.code == some 0x4) = true := by decide
theorem test_ack_header : -- V67 step 10
    after (exec .ack { hdAt .waitHdrAck readStore none with p2h := [0x0F] }) (fun t =>
        t.hd.state == .rRecvPayload && t.hd.cnt == some 0 && t.hd.lastAck == some 0x0F) = true := by decide
theorem test_ack_final : -- V67 step 14
    after (exec .ack { hdAt .rWaitFinal readStore none with p2h := [0x0F] }) (fun t =>
        t.hd.state == .idle && t.hd.rpt.map Report.code == some 0) = true := by decide
theorem test_nack_header : -- V52
    after (exec .nack { hdAt .waitHdrAck writeStore none with p2h := [0xF0] }) (fun t =>
        t.hd.state == .retryPrompt && t.hd.lastAck == some 0xF0 && t.hd.rpt.map Report.code == some 1) = true := by decide
theorem test_nack_final : -- V53
    after (exec .nack { hdAt .wWaitFinal writeStore none with p2h := [0xF0] }) (fun t =>
        t.hd.state == .idle && t.hd.rpt.map Report.code == some 2) = true := by decide
theorem test_nackOther : -- V54: a third value is handled as NACK
    after (exec (.nackOther 0x00) { hdAt .waitHdrAck writeStore none with p2h := [0x00] }) (fun t =>
        t.hd.state == .retryPrompt && t.hd.lastAck == some 0x00) = true := by decide
theorem test_hostRead_receive : -- V67 step 11
    after (exec (.hostRead 0xFE 0x03 0x01 rsv0) { hdAt .rRecvPayload readStore (some 0) with p2h := [0xC3] }) (fun t =>
        t.hd.hrx == [(0, 0xC3)] && t.hd.cnt == some 1 && t.h2p == []) = true := by decide
theorem test_hostRead_stop : -- V67 step 13: HFS[9]
    after (exec (.hostRead 0xFE 0x03 0x01 rsv0) (hdAt .rSendStop readStore none)) (fun t =>
        t.h2p == [0x01] && t.hd.state == .rWaitFinal) = true := by decide
theorem test_hostWrite_header : -- R203: HFS[7], then the acknowledgment is waited for
    after (exec (.hostWrite 0xFE 0x00 0x01 0x02 rsv0) (hdAt .sendHeader writeStore (some 7))) (fun t =>
        t.h2p == [0x00] && t.hd.state == .waitHdrAck) = true := by decide
theorem test_hostWrite_payload : -- R207: HFS[8]
    after (exec (.hostWrite 0xFE 0x00 0x01 0x02 rsv0) (hdAt .wSendPayload writeStore (some 0))) (fun t =>
        t.h2p == [0x5A] && t.hd.cnt == some 1) = true := by decide

/-! ## The environment, and where the machine stops -/

theorem test_xport_halts : -- V40
    after (envStep (.xportErr .pe) (peHolding .wPayload 0x00 0x02 0x02 [(0, 0xAA)] (some 1))) (fun t =>
        t.pe.state == .halted && t.pe.alloc == false && t.p2h == [] &&
        t.trace == [(.pe, .err .transportError none), (.pe, .release)]) = true := by decide
theorem test_reset_releases : -- V43
    after (envStep (.reset .pe) (peHolding .wPayload 0x00 0x02 0x02 [(0, 0xAA)] (some 1))) (fun t =>
        t.pe.state == .waitStart && t.pe.alloc == false && t.pe.bufRelease == true && t.trace == [(.pe, .release)]) =
      true := by decide
theorem test_operator_ignored : -- V66
    after (envStep (.op .retry) State.reset) (fun t => t == State.reset) = true := by decide
theorem test_store_refused_mid_cycle : -- U19
    refuses (envStep (.loadStore writeStore) (hdAt .waitHdrAck writeStore none)) .storeLoadOutsideIdle = true := by decide
theorem test_store_partial_refused : -- log 5
    refuses (envStep (.loadStore [0xFE, 0x00, 0x01, 0x02]) State.reset) .storeLoadNotAFrame = true := by decide
theorem test_fault_noValue : -- U12
    faults (agentStep .pe (peBare .validateBoard)) .noValue = true := by decide
theorem test_fault_storeNotLoaded : -- log 4
    faults (agentStep .hd { State.reset with opStart := true }) .storeNotLoaded = true := by decide
theorem test_fault_counter : -- log 15
    faults (agentStep .pe { peBare .readHeader with pe := { Pe.reset with state := .readHeader, cnt := some 8 } })
      .counterOutOfRange = true := by decide
theorem test_fault_outOfPosition : -- log 15
    faults (exec .stop State.reset) .outOfPosition = true := by decide
theorem test_overrun : -- U18: a queue longer than the receive FIFO may lose a byte
    after (envStep (.chDelete .h2p 1)
      { State.reset with params := { Params.default with rxDepthPe := some 1 }, h2p := [0xFE, 0x00] }) (fun t =>
        t.h2p == [0xFE]) = true := by decide
theorem test_no_overrun_while_receiving : -- R293: 8 bytes suffice toward a peripheral that is receiving
    refuses (envStep (.chDelete .h2p 1)
      { State.reset with params := { Params.default with rxDepthPe := some 8 }, h2p := List.replicate 9 0xFE })
      .channelFaultNotAdmitted = true := by decide
theorem test_back_pressure : -- R293, log 12: a full FIFO holds the sender back while the peripheral dispatches
    after (agentStep .hd { hdAt .wSendStop writeStore none with
      params := { Params.default with rxDepthPe := some 0, backPressure := true }
      pe := (peHolding .wDispatch 0 0 2 [] none).pe }) (fun t =>
        t.h2p == [] && t.hd.state == .wSendStop) = true := by decide
theorem test_back_pressure_handover : -- R293: a line of depth 0 takes a byte to a receiving peripheral
    after (agentStep .hd { hdAt .wSendStop writeStore none with
      params := { Params.default with rxDepthPe := some 0, backPressure := true } }) (fun t =>
        t.h2p == [0x01] && t.hd.state == .wWaitFinal) = true := by decide
theorem test_port_rx_ready : (State.reset.peRxReady, (peAt .wDispatch 0 0 2).peRxReady) = (true, false) := by decide -- R28
theorem test_port_hfs : (hdAt .wSendStop writeStore none).hdTx = some 0x01 := by decide -- R38

/-! ## Witnesses: for every obligation with hypotheses, a concrete state and operands that meet all of them, clause by clause -/

/-- Some payload bytes. -/
def bytesOf (n : Nat) : List Byte := List.replicate n 0x5A

/-- A Write header to the LED and a Read header, any length, with reserved bytes set. -/
def wr (len : Byte) : Instr := .writeLed len ⟨0xDE, 0xAD, 0xBE, 0xEF⟩
def rd (len : Byte) : Instr := .readAdc 3 len ⟨0xDE, 0xAD, 0xBE, 0xEF⟩

/-- A stored frame of any length and mode. -/
def storeOf (len mode stop : Byte) : List Byte := [0xFE, 0x03, len, mode, 1, 2, 3, 4] ++ bytesOf len.toNat ++ [stop]

/-- A stored frame reads back whole. -/
theorem storeOf_readSeq (len mode stop : Byte) :
    (Memory.ofBytes (storeOf len mode stop)).readSeq 0 (9 + len.toNat) = some (storeOf len mode stop) := by
  have h : (storeOf len mode stop).length = 9 + len.toNat := by simp [storeOf, bytesOf]; omega
  rw [← h]
  exact Memory.readSeq_writeSeq [] 0 _

/-- Its payload bytes, its stop byte, and a buffer that holds a payload. -/
theorem storeOf_payload (len mode stop : Byte) {i : Nat} (h : i < len.toNat) :
    (Memory.ofBytes (storeOf len mode stop)).read (8 + i) = some 0x5A := by
  rw [Memory.read_ofBytes]
  simp only [storeOf, bytesOf, Nat.add_comm 8 i, List.cons_append, List.nil_append, List.getElem?_cons_succ]
  rw [List.getElem?_append_left (by simpa using h)]
  simp [h]
theorem storeOf_stop (len mode stop : Byte) :
    (Memory.ofBytes (storeOf len mode stop)).read (8 + len.toNat) = some stop := by
  rw [Memory.read_ofBytes]
  simp [storeOf, bytesOf, Nat.add_comm 8]
theorem bytesOf_readSeq (n : Nat) : (Memory.ofBytes (bytesOf n)).readSeq 0 n = some (bytesOf n) := by
  have := Memory.readSeq_writeSeq [] 0 (bytesOf n)
  rwa [show (bytesOf n).length = n from List.length_replicate] at this

/-! ### Encoding -/

theorem witness_DecodeOfEncode : WellFormed (.hdrBadMode 3 0xFF 0x00 rsv0) = true ∧ WellFormed (.hdrBadBoard 0x04 0 0x01 rsv0) = true ∧
    WellFormed (.hostWrite 0x00 0 0xFF 0x02 rsv0) = true ∧ WellFormed (.discard 0xFF) = true ∧ WellFormed (.stopBad 0x00) = true ∧
    WellFormed (.nackOther 0x0E) = true := by decide
theorem witness_EncodeOfDecode : decode .peHeader [0xFE, 0xFF, 0, 0, 1, 2, 3, 4, 9] = .ok (.hdrBadBoard 0xFF 0 0 ⟨1, 2, 3, 4⟩) [9] ∧
    decode .peStop [0xFE, 9] = .ok (.stopBad 0xFE) [9] := by decide
theorem witness_CodecRoundTrip : (Header.mk 0xFE 0xFF 0x00 0xFE ⟨1, 2, 3, 4⟩).start = 0xFE ∧
    [0xFE, 0xFF, 0x00, 0xFE, 1, 2, 3, (4 : Byte)].length = 8 ∧ [0xFE, 0xFF, 0x00, 0xFE, 1, 2, 3, (4 : Byte)].head? = some 0xFE := by
  decide

/-! ### The step runs what is decoded -/

theorem witness_PeripheralStepRunsDecoded_start :
    let s := { State.reset with script := [.run .pe], h2p := [0xFE, 0xFE] }
    s.script = .run .pe :: [] ∧ s.pe.state = .waitStart ∧ decode .peWaitStart s.h2p = .ok .start [0xFE] := by decide
theorem witness_PeripheralStepRunsDecoded_stop :
    let s := { peHolding .wStop 0 1 2 [(0, 0x5A)] none with script := [.run .pe], h2p := [0x00] }
    s.script = .run .pe :: [] ∧ s.pe.state = .wStop ∧ decode .peStop s.h2p = .ok (.stopBad 0x00) [] := by decide
theorem witness_PeripheralStepRunsDecoded_header :
    let s := { peAt .sendNack 0x03 0xFF 0x00 with script := [.run .pe] }
    s.script = .run .pe :: [] ∧ s.pe.state ∉ [PeState.waitStart, .readHeader, .wStop, .rStop, .halted] ∧
    s.pe.id = some 0x03 ∧ s.pe.len = some 0xFF ∧ s.pe.mode = some 0x00 ∧ s.pe.rsv0 = some 0 ∧ s.pe.rsv1 = some 0 ∧
    s.pe.rsv2 = some 0 ∧ s.pe.rsv3 = some 0 ∧
    decode .peHeader [0xFE, 0x03, 0xFF, 0x00, 0, 0, 0, 0] = .ok (.hdrBadMode 3 0xFF 0x00 rsv0) [] := by decide
theorem witness_HostStepRunsDecoded_ack :
    let s := { hdAt .rWaitFinal readStore none with script := [.run .hd], p2h := [0x00, 0xF0] }
    s.script = .run .hd :: [] ∧ s.hd.state = .rWaitFinal ∧ decode .hdAck s.p2h = .ok (.nackOther 0x00) [0xF0] := by decide
theorem witness_HostStepRunsDecoded_idle :
    let s := { hdAt .idle readStore none with script := [.run .hd], opStart := true }
    s.script = .run .hd :: [] ∧ s.hd.state = .idle ∧ s.opStart = true ∧
    s.hd.hfs.readSeq 0 8 = some [0xFE, 0x03, 0x01, 0x01, 0, 0, 0, 0] ∧
    decode .hdFrameStore [0xFE, 0x03, 0x01, 0x01, 0, 0, 0, 0] = .ok (.hostRead 0xFE 0x03 0x01 rsv0) [] := by decide
theorem witness_HostStepRunsDecoded_retry :
    let s := { hdAt .retryPrompt writeStore none with script := [.run .hd], opRetry := true }
    s.script = .run .hd :: [] ∧ s.hd.state = .retryPrompt ∧ s.opRetry = true ∧
    s.hd.hfs.readSeq 0 8 = some [0xFE, 0x00, 0x01, 0x02, 0, 0, 0, 0] ∧
    decode .hdFrameStore [0xFE, 0x00, 0x01, 0x02, 0, 0, 0, 0] = .ok (.hostWrite 0xFE 0x00 0x01 0x02 rsv0) [] := by decide
theorem witness_HostStepRunsDecoded_store :
    let s := { hdAt .wSendStop writeStore none with script := [.run .hd] }
    s.script = .run .hd :: [] ∧
    s.hd.state ∈ [HdState.sendHeader, .wSendPayload, .wSendStop, .rRecvPayload, .rSendStop] ∧
    s.hd.hfs.readSeq 0 8 = some [0xFE, 0x00, 0x01, 0x02, 0, 0, 0, 0] ∧
    decode .hdFrameStore [0xFE, 0x00, 0x01, 0x02, 0, 0, 0, 0] = .ok (.hostWrite 0xFE 0x00 0x01 0x02 rsv0) [] := by decide
theorem witness_EmptyScriptAlternates : { State.reset with turn := .hd, h2p := [0xFE] }.script = [] := rfl

/-! ### Rows of the peripheral -/

theorem witness_WaitStartScans :
    let s (q : List Byte) := { State.reset with h2p := q }
    (s []).pe.state = .waitStart ∧ (s [0xFE]).h2p = 0xFE :: [] ∧ (0xFF : Byte) ≠ 0xFE ∧ (s [0xFF, 0xFE]).h2p = 0xFF :: [0xFE] ∧
    (s []).h2p = [] := by decide
theorem witness_ReadHeaderStores :
    let s (c : Cnt) := { peBare .readHeader with pe := { Pe.reset with state := .readHeader, cnt := some c }, h2p := [0xFE, 0x00] }
    ∀ c ∈ [(1 : Cnt), 2, 3, 4, 5, 6, 7],
      (s c).pe.state = .readHeader ∧ (s c).pe.cnt = some c ∧ 1 ≤ c.toNat ∧ c.toNat ≤ 7 ∧ (s c).h2p = 0xFE :: [0x00] := by decide
theorem witness_BadBoardRaises : ∀ id ∈ [(0x04 : Byte), 0xFF],
    WellFormed (.hdrBadBoard id 0 0x01 rsv0) = true ∧ (peAt .validateBoard id 0 0x01).pe.state = .validateBoard := by decide
theorem witness_BadModeRaises : ∀ m ∈ [(0x00 : Byte), 0x03, 0xFF],
    WellFormed (.hdrBadMode 3 0 m rsv0) = true ∧ (peAt .validateBoard 3 0 m).pe.state = .validateBoard ∧
    (peAt .validateMode 3 0 m).pe.state = .validateMode := by decide
theorem witness_SendNackRestarts :
    (Instr.hdrBadBoard 0xFC 0 0 rsv0).context = .peHeader ∧ (wr 2).context = .peHeader ∧
    (peAt .sendNack 0xFC 0 0).pe.state = .sendNack ∧ (peAt .sendNack 0xFC 0 0).hasRoom .p2h = true ∧
    (peHolding .sendNack 0 1 2 [(0, 0x5A)] none).pe.state = .sendNack ∧
    (peHolding .sendNack 0 1 2 [(0, 0x5A)] none).hasRoom .p2h = true := by decide
theorem witness_GoodHeaderPassesChecks :
    writeFrame (wr 0) = some (0, 0) ∧ readFrame (rd 0xFF) = some (3, 0xFF) ∧
    (peAt .validateBoard 3 0xFF 1).pe.state = .validateBoard ∧ (peAt .validateMode 3 0xFF 1).pe.state = .validateMode := by decide
theorem witness_AllocateBufferAnswers :
    let s (m : AllocModel) (q : List Bool) :=
      { peAt .allocateBuffer 3 0xFF 1 with params := { Params.default with allocModel := m }, allocQ := q }
    readFrame (rd 0xFF) = some (3, 0xFF) ∧ writeFrame (wr 0) = some (0, 0) ∧ (s .oracle []).pe.state = .allocateBuffer ∧
    (s .oracle [true]).params.allocModel = .oracle ∧ (s .oracle [true]).allocQ = true :: [] ∧
    (s .neverFails []).params.allocModel = .neverFails ∧
    (s .oracle [false, true]).allocQ = false :: [true] ∧ (s .oracle []).allocQ = [] := by decide
theorem witness_WriteFlowRows_acks :
    writeFrame (wr 0xFF) = some (0, 0xFF) ∧
    (peHolding .wHdrAck 0 0xFF 2 [] none).pe.state = .wHdrAck ∧ (peHolding .wHdrAck 0 0xFF 2 [] none).hasRoom .p2h = true ∧
    (peHolding .wFinalAck 0 0xFF 2 [] none).pe.state = .wFinalAck ∧
    (peHolding .wFinalAck 0 0xFF 2 [] none).hasRoom .p2h = true := by decide
theorem witness_WriteFlowRows_payload :
    let s (c : Cnt) := { peHolding .wPayload 0 0xFF 2 [] (some c) with h2p := [0xFE] }
    writeFrame (wr 0xFF) = some (0, 0xFF) ∧
    (∀ c ∈ [(0 : Cnt), 254], (s c).pe.state = .wPayload ∧ (s c).pe.cnt = some c ∧ c.toNat < (0xFF : Byte).toNat ∧
      (s c).h2p = 0xFE :: []) ∧
    (s 255).pe.state = .wPayload ∧ (s 255).pe.cnt = some 255 ∧ (255 : Cnt).toNat = (0xFF : Byte).toNat := by decide
theorem witness_WriteFlowRows_dispatch :
    let s (n : Nat) (m : Memory) := { peHolding .wDispatch 0 1 2 m none with devwQ := n }
    writeFrame (wr 1) = some (0, 1) ∧ writeFrame (wr 0) = some (0, 0) ∧ (s 0 []).pe.state = .wDispatch ∧ (s 0 []).devwQ = 0 ∧
    (s 1 [(0, 0x5A)]).devwQ = 0 + 1 ∧ (s 1 [(0, 0x5A)]).pe.buf.readSeq 0 (1 : Byte).toNat = some [0x5A] ∧
    (s 1 []).pe.buf.readSeq 0 (0 : Byte).toNat = some [] := by decide
theorem witness_WriteFlowRows_dispatch_lengths : ∀ len ∈ [(0 : Byte), 0xFF],
    let s := { peHolding .wDispatch 0 len 2 (Memory.ofBytes (bytesOf len.toNat)) none with devwQ := 1 }
    writeFrame (wr len) = some (0, len) ∧ s.pe.state = .wDispatch ∧ s.devwQ = 0 + 1 ∧
    s.pe.buf.readSeq 0 len.toNat = some (bytesOf len.toNat) := by
  intro len _
  exact ⟨rfl, rfl, rfl, bytesOf_readSeq len.toNat⟩
theorem witness_ReadFlowRows_fill :
    let s (q : List Byte) := { peHolding .rFill 3 2 1 [] none with adcQ := q }
    (peHolding .rHdrAck 3 2 1 [] none).pe.state = .rHdrAck ∧ (peHolding .rHdrAck 3 2 1 [] none).hasRoom .p2h = true ∧
    (s [7]).pe.state = .rFill ∧ (s [7]).adcQ.length < (2 : Byte).toNat ∧ (s [7, 8, 9]).adcQ = [7, 8] ++ [9] ∧
    [7, (8 : Byte)].length = (2 : Byte).toNat ∧ (s []).adcQ = [] ++ [] ∧ ([] : List Byte).length = (0 : Byte).toNat := by decide
theorem witness_ReadFlowRows_stream :
    let s (c : Cnt) := peHolding .rStream 3 2 1 [(0, 7), (1, 8)] (some c)
    (s 0).pe.state = .rStream ∧ (s 0).pe.cnt = some 0 ∧ (0 : Cnt).toNat < (2 : Byte).toNat ∧ (s 0).pe.buf.read (0 : Cnt).toNat = some 7 ∧
    (s 1).pe.cnt = some 1 ∧ (1 : Cnt).toNat < (2 : Byte).toNat ∧ (s 1).pe.buf.read (1 : Cnt).toNat = some 8 ∧
    (s 1).hasRoom .p2h = true ∧ (s 2).pe.cnt = some 2 ∧ (2 : Cnt).toNat = (2 : Byte).toNat ∧
    (peAt .rFinalAck 3 2 1).pe.state = .rFinalAck ∧ (peAt .rFinalAck 3 2 1).hasRoom .p2h = true := by decide
theorem witness_StopByteDecides :
    let w (b : Byte) := { peHolding .wStop 0 1 2 [(0, 0x5A)] none with h2p := [b] }
    let r (b : Byte) := { peAt .rStop 3 1 1 with h2p := [b] }
    (w 1).pe.state = .wStop ∧ (w 1).h2p = 0x01 :: [] ∧ (r 1).pe.state = .rStop ∧ (r 1).h2p = 0x01 :: [] ∧
    (∀ b ∈ [(0x00 : Byte), 0x02, 0xFF], b ≠ 0x01 ∧ (w b).pe.state = .wStop ∧ (w b).h2p = b :: [] ∧
      (r b).pe.state = .rStop ∧ (r b).h2p = b :: []) := by decide

/-! ### Rows of the host -/

theorem witness_HeaderAcknowledgment :
    let s (st : List Byte) (b : Byte) := { hdAt .waitHdrAck st none with p2h := [b, 0x5A] }
    (s readStore 0x0F).hd.state = .waitHdrAck ∧ (s readStore 0x0F).p2h = 0x0F :: [0x5A] ∧ ackByte .ack = some 0x0F ∧
    WellFormed .ack = true ∧ (s readStore 0x0F).hd.hfs.read 3 = some 0x01 ∧ (s writeStore 0x0F).hd.hfs.read 3 = some 0x02 ∧
    ackByte .nack = some 0xF0 ∧ WellFormed .nack = true ∧ (0xF0 : Byte) ≠ 0x0F ∧ ackByte (.nackOther 0x0E) = some 0x0E ∧
    WellFormed (.nackOther 0x0E) = true ∧ (0x0E : Byte) ≠ 0x0F := by decide
theorem witness_FinalAcknowledgment :
    let s (st : HdState) (b : Byte) := { hdAt st readStore none with p2h := [b] }
    (s .wWaitFinal 0x0F).hd.state = .wWaitFinal ∧ (s .rWaitFinal 0xF0).hd.state = .rWaitFinal ∧ (s .rWaitFinal 0xF0).p2h = 0xF0 :: [] ∧
    ackByte .nack = some 0xF0 ∧ WellFormed .nack = true ∧ ackByte .ack = some 0x0F ∧ WellFormed .ack = true ∧
    ackByte (.nackOther 0x10) = some 0x10 ∧ WellFormed (.nackOther 0x10) = true := by decide
theorem witness_HostSendsStoredHeader :
    let i : Instr := .hostWrite 0xFE 0x00 0x01 0x02 rsv0
    let s (c : Cnt) := hdAt .sendHeader writeStore (some c)
    hostFrame i = some 1 ∧ { hdAt .idle writeStore none with opStart := true }.hd.state = .idle ∧
    { hdAt .idle writeStore none with opStart := true }.opStart = true ∧
    { hdAt .retryPrompt writeStore none with opRetry := true }.hd.state = .retryPrompt ∧
    { hdAt .retryPrompt writeStore none with opRetry := true }.opRetry = true ∧
    (s 0).hd.state = .sendHeader ∧ (s 0).hd.cnt = some 0 ∧ (0 : Cnt).toNat ≤ 7 ∧ (s 0).hd.hfs.read (0 : Cnt).toNat = some 0xFE ∧
    (s 7).hd.cnt = some 7 ∧ (7 : Cnt).toNat ≤ 7 ∧ (s 7).hd.hfs.read (7 : Cnt).toNat = some 0x00 ∧ (s 7).hasRoom .h2p = true := by decide
theorem witness_HostWriteRows :
    let i : Instr := .hostWrite 0xFE 0x00 0x01 0x02 rsv0
    let s (c : Cnt) := hdAt .wSendPayload writeStore (some c)
    hostFrame i = some 1 ∧ (s 0).hd.state = .wSendPayload ∧ (s 0).hd.cnt = some 0 ∧ (0 : Cnt).toNat < (1 : Byte).toNat ∧
    (s 0).hd.hfs.read (8 + (0 : Cnt).toNat) = some 0x5A ∧ (s 0).hasRoom .h2p = true ∧ (s 1).hd.cnt = some 1 ∧
    (1 : Cnt).toNat = (1 : Byte).toNat ∧ (hdAt .wSendStop writeStore none).hd.state = .wSendStop ∧
    (hdAt .wSendStop writeStore none).hd.hfs.read (8 + (1 : Byte).toNat) = some 0x01 ∧
    (hdAt .wSendStop writeStore none).hasRoom .h2p = true := by decide
theorem witness_HostWriteRows_255 : ∀ c : Cnt, c = 254 → ∀ len : Byte, len = 0xFF →
    let s := hdAt .wSendPayload (storeOf len 0x02 0x01) (some c)
    hostFrame (.hostWrite 0xFE 0x03 len 0x02 ⟨1, 2, 3, 4⟩) = some len ∧ s.hd.cnt = some c ∧ c.toNat < len.toNat ∧
    s.hd.hfs.read (8 + c.toNat) = some 0x5A ∧ s.hd.hfs.read (8 + len.toNat) = some 0x01 := by
  intro c hc len hl
  have h : c.toNat < len.toNat := by subst hc hl; decide
  exact ⟨rfl, rfl, h, storeOf_payload _ _ _ h, storeOf_stop _ _ _⟩
theorem witness_HostReadRows :
    let i : Instr := .hostRead 0xFE 0x03 0x01 rsv0
    let s (c : Cnt) := { hdAt .rRecvPayload readStore (some c) with p2h := [0xC3] }
    hostFrame i = some 1 ∧ (s 0).hd.state = .rRecvPayload ∧ (s 0).hd.cnt = some 0 ∧ (0 : Cnt).toNat < (1 : Byte).toNat ∧
    (s 0).p2h = 0xC3 :: [] ∧ (s 1).hd.cnt = some 1 ∧ (1 : Cnt).toNat = (1 : Byte).toNat ∧
    (hdAt .rSendStop readStore none).hd.state = .rSendStop ∧
    (hdAt .rSendStop readStore none).hd.hfs.read (8 + (1 : Byte).toNat) = some 0x01 ∧
    (hdAt .rSendStop readStore none).hasRoom .h2p = true := by decide

/-! ### Frames -/

theorem witness_HeaderInstructionFrame :
    (∃ t, exec (wr 1) { peHolding .wPayload 0 1 2 [] (some 0) with h2p := [0x5A] } = .next t) ∧
    (∃ t, exec (rd 1) { peHolding .rFill 3 1 1 [] none with adcQ := [7] } = .next t) ∧
    (∃ t, exec (.hdrBadMode 0 1 0 rsv0) (peAt .validateMode 0 1 0) = .next t) ∧
    (∃ t, exec (.hdrBadBoard 0xFC 1 0 rsv0) (peAt .sendNack 0xFC 1 0) = .next t) :=
  ⟨⟨_, rfl⟩, ⟨_, rfl⟩, ⟨_, rfl⟩, ⟨_, rfl⟩⟩
theorem witness_PeripheralTokenFrame :
    (∃ t, exec .start { State.reset with h2p := [0xFE] } = .next t) ∧
    (∃ t, exec (.discard 0) { State.reset with h2p := [0] } = .next t) ∧
    (∃ t, exec .stop { peHolding .wStop 0 0 2 [] none with h2p := [0x01] } = .next t) ∧
    (∃ t, exec (.stopBad 0) { peAt .rStop 3 0 1 with h2p := [0] } = .next t) :=
  ⟨⟨_, rfl⟩, ⟨_, rfl⟩, ⟨_, rfl⟩, ⟨_, rfl⟩⟩
theorem witness_HostInstructionFrame :
    (∃ t, exec .ack { hdAt .waitHdrAck readStore none with p2h := [0x0F] } = .next t) ∧
    (∃ t, exec .nack { hdAt .waitHdrAck readStore none with p2h := [0xF0] } = .next t) ∧
    (∃ t, exec (.nackOther 0) { hdAt .rWaitFinal readStore none with p2h := [0] } = .next t) ∧
    (∃ t, exec (.hostRead 0xFE 0x03 0x01 rsv0) (hdAt .rRecvPayload readStore (some 1)) = .next t) ∧
    (∃ t, exec (.hostWrite 0xFE 0x00 0x01 0x02 rsv0) (hdAt .sendHeader writeStore (some 7)) = .next t) :=
  ⟨⟨_, rfl⟩, ⟨_, rfl⟩, ⟨_, rfl⟩, ⟨_, rfl⟩, ⟨_, rfl⟩⟩

/-! ### Errors and the environment -/

theorem witness_OneCausePerHeader :
    (peAt .validateBoard 0x04 0 0).pe.state = .validateBoard ∧ validateBoard 0x04 = false ∧ validateBoard 0x03 = true ∧
    (peAt .validateMode 3 0 0).pe.state = .validateMode ∧ validateMode 0x00 = false ∧ validateMode 0x03 = false ∧
    validateMode 0x01 = true ∧ validateMode 0x02 = true := by decide
theorem witness_TransportErrorHalts :
    (peHolding .wPayload 0 1 2 [] (some 0)).pe.state ≠ .halted ∧ State.reset.pe.state ≠ .halted ∧
    (hdAt .waitHdrAck readStore none).hd.state ≠ .fatal := by decide
theorem witness_StoreLoad :
    (hdAt .waitHdrAck writeStore none).hd.state ≠ .idle ∧ State.reset.hd.state = .idle ∧
    (∀ len ∈ [(0 : Byte), 0xFF], (storeOf len 2 1)[2]? = some len ∧ 9 + len.toNat ≤ (storeOf len 2 1).length ∧
      (storeOf len 2 1).length ≤ 264) := by decide +kernel
theorem witness_StoreLoad_refused : ∀ bytes ∈ [[], [0xFE, 0x00, 0x01, 0x02, 0, 0, 0, 0, 0x5A], bytesOf 265],
    State.reset.hd.state = .idle ∧ ¬∃ len, bytes[2]? = some len ∧ 9 + len.toNat ≤ bytes.length ∧ bytes.length ≤ 264 := by
  intro bytes h
  simp only [List.mem_cons, List.not_mem_nil, or_false] at h
  obtain rfl | rfl | rfl := h
  · exact ⟨rfl, by simp⟩
  · exact ⟨rfl, by simp⟩
  · refine ⟨rfl, fun ⟨_, _, _, h⟩ => ?_⟩
    rw [show (bytesOf 265).length = 265 from List.length_replicate] at h
    omega
theorem witness_ChannelFaults :
    State.reset.params.channelModel = .ideal ∧ State.reset.params.rxDepthPe = none ∧ State.reset.params.rxDepthHd = none ∧
    { State.reset with params := { Params.default with channelModel := .lossy }, h2p := [1, 2] }.params.channelModel = .lossy := by
  decide

/-! ### The whole machine -/

/-- A Write of two bytes to the LED under way: the host has sent both payload bytes, the peripheral has buffered one. -/
def midWrite : State :=
  { State.reset with
    pe := { (peHolding .wPayload 0 2 2 [(0, 0x5A)] (some 1)).pe with evt := none }
    hd := { Hd.resetKeeping (Memory.ofBytes [0xFE, 0x00, 0x02, 0x02, 0, 0, 0, 0, 0x5A, 0xA5, 0x01]) with
      state := .wSendPayload, cnt := some 2, lastAck := some 0x0F }
    h2p := [0xA5], script := [.run .pe]
    trace := [(.hd, .tx 0xFE), (.hd, .tx 0), (.hd, .tx 2), (.hd, .tx 2), (.hd, .tx 0), (.hd, .tx 0), (.hd, .tx 0), (.hd, .tx 0),
      (.pe, .rx 0xFE), (.pe, .rx 0), (.pe, .rx 2), (.pe, .rx 2), (.pe, .rx 0), (.pe, .rx 0), (.pe, .rx 0), (.pe, .rx 0),
      (.pe, .alloc 2 true), (.pe, .tx 0x0F), (.hd, .rx 0x0F), (.hd, .tx 0x5A), (.hd, .tx 0xA5), (.pe, .rx 0x5A)] }

/-- A Read of two bytes under way: the peripheral has sent one sample, which is in flight. -/
def midRead : State :=
  { State.reset with
    pe := (peHolding .rStream 3 2 1 [(0, 0xC3), (1, 0x3C)] (some 1)).pe
    hd := { Hd.resetKeeping (Memory.ofBytes [0xFE, 0x03, 0x02, 0x01, 0, 0, 0, 0, 0, 0, 0x01]) with
      state := .rRecvPayload, cnt := some 0, lastAck := some 0x0F }
    p2h := [0xC3], script := [.run .pe], trace := [(.pe, .devr .adc 3 2 [0xC3, 0x3C])] }

theorem midWrite_inv : midWrite.Inv := by
  refine ⟨⟨⟨⟨rfl, rfl, rfl, rfl, rfl, rfl, rfl⟩, ⟨0, rfl, by decide⟩, rfl⟩, rfl, 1, 2, rfl, rfl, by decide, rfl⟩,
    ⟨⟨by decide, by decide, .inr (by decide), List.Pairwise.nil, by decide⟩,
      ⟨by decide, 2, rfl, by decide⟩, 2, 2, rfl, rfl, by decide⟩, ?_, ?_⟩ <;> intro h <;> cases h
theorem midWrite_inStep : midWrite.InStep :=
  ⟨.inr rfl, 2, rfl, rfl, ⟨rfl, rfl, rfl⟩, 1, [0xA5], by decide, rfl, rfl, rfl, .inl ⟨rfl, 1, rfl, rfl⟩⟩
theorem midRead_inv : midRead.Inv := by
  refine ⟨⟨⟨⟨rfl, rfl, rfl, rfl, rfl, rfl, rfl⟩, ⟨3, rfl, by decide⟩, rfl⟩, ⟨rfl, 2, rfl, rfl⟩, 1, 2, rfl, rfl, by decide⟩,
    ⟨⟨by decide, by decide, .inr (by decide), List.Pairwise.nil, by decide⟩,
      ⟨by decide, rfl⟩, 0, 2, rfl, rfl, by decide, rfl⟩, ?_, ?_⟩ <;> intro h <;> cases h
theorem midRead_inStep : midRead.InStep :=
  ⟨.inr rfl, rfl, 0, [], rfl, rfl, ⟨rfl, rfl, rfl⟩, .inr (.inl ⟨rfl, 1, 2, rfl, rfl, rfl, rfl⟩)⟩

theorem witness_StepKeepsLiveRanges : midWrite.Inv ∧ ∃ t, step midWrite = .next t := ⟨midWrite_inv, _, rfl⟩
theorem witness_NoReadOutsideLiveRange :
    let s := { State.reset with script := [.run .hd], opStart := true }
    s.Inv ∧ step s = .fault .storeNotLoaded := by
  refine ⟨⟨⟨⟨rfl, rfl, rfl, rfl, rfl, rfl, rfl⟩, rfl, rfl, rfl⟩, ⟨⟨List.Pairwise.nil, by decide, .inl rfl, List.Pairwise.nil, by decide⟩, rfl⟩, ?_, ?_⟩, rfl⟩
  · intro _; rfl
  · intro h; cases h
theorem witness_OnlyResetLeavesHalt :
    let s := { State.reset with
      pe := { Pe.reset with state := .halted }, hd := { Hd.resetKeeping [] with state := .fatal }, script := [.run .pe], h2p := [0xFE] }
    (∃ t, step s = .next t) ∧ s.pe.state = .halted ∧ s.script.head? ≠ some (.env (.reset .pe)) ∧
    s.hd.state = .fatal ∧ s.script.head? ≠ some (.env (.reset .hd)) := ⟨⟨_, rfl⟩, by decide⟩
theorem witness_NothingSharedButChannel :
    (∃ t, agentStep .pe midWrite = .next t) ∧ (∃ t, agentStep .hd midRead = .next t) := ⟨⟨_, rfl⟩, ⟨_, rfl⟩⟩
theorem witness_NothingSharedButChannel_reading_pe :
    let s := midRead
    let s' := { midRead with hd := State.reset.hd, p2h := [], opStart := true, trace := [] }
    s.pe = s'.pe ∧ s.params.allocModel = s'.params.allocModel ∧ s.h2p = s'.h2p ∧ s.allocQ = s'.allocQ ∧ s.adcQ = s'.adcQ ∧
    s.devwQ = s'.devwQ ∧ s.hasRoom .p2h = s'.hasRoom .p2h ∧ ∃ t, agentStep .pe s = .next t :=
  ⟨rfl, rfl, rfl, rfl, rfl, rfl, rfl, _, rfl⟩
theorem witness_NothingSharedButChannel_reading_hd :
    let s := midRead
    let s' := { midRead with pe := State.reset.pe, h2p := [0xFE], allocQ := [true], trace := [] }
    s.hd = s'.hd ∧ s.p2h = s'.p2h ∧ s.opStart = s'.opStart ∧ s.opRetry = s'.opRetry ∧
    s.hasRoom .h2p = s'.hasRoom .h2p ∧ ∃ t, agentStep .hd s = .next t := ⟨rfl, rfl, rfl, rfl, rfl, _, rfl⟩
theorem witness_BlockedEngineWaits_tokens :
    State.reset.h2p = [] ∧ State.reset.pe.state = .waitStart ∧ (peHolding .wStop 0 0 2 [] none).h2p = [] ∧
    (peHolding .wStop 0 0 2 [] none).pe.state = .wStop ∧ (peAt .rStop 3 0 1).h2p = [] ∧ (peAt .rStop 3 0 1).pe.state = .rStop ∧
    (∀ c ∈ [(1 : Cnt), 7], 1 ≤ c.toNat ∧ c.toNat ≤ 7 ∧
      { State.reset with pe := { Pe.reset with state := .readHeader, cnt := some c } }.pe.cnt = some c ∧
      { State.reset with pe := { Pe.reset with state := .readHeader, cnt := some c } }.pe.state = .readHeader ∧
      { State.reset with pe := { Pe.reset with state := .readHeader, cnt := some c } }.h2p = []) := by decide
theorem witness_BlockedEngineWaits_header :
    (∀ c ∈ [(0 : Cnt), 254], (peHolding .wPayload 0 0xFF 2 [] (some c)).h2p = [] ∧
      (peHolding .wPayload 0 0xFF 2 [] (some c)).pe.state = .wPayload ∧ c.toNat < (0xFF : Byte).toNat) ∧
    (peHolding .wPayload 0 0xFF 2 [] (some 0)).pe.HeaderLive ∧
    ((peAt .allocateBuffer 0 0 2).pe.Writing ∧ (peAt .allocateBuffer 3 0xFF 1).pe.Reading ∧
      (peAt .allocateBuffer 0 0 2).params.allocModel = .oracle ∧ (peAt .allocateBuffer 0 0 2).allocQ = []) ∧
    ((peHolding .wDispatch 0 0 2 [] none).pe.HeaderLive ∧ (peHolding .wDispatch 0 0 2 [] none).devwQ = 0) ∧
    ((peHolding .rFill 3 1 1 [] none).pe.HeaderLive ∧ (peHolding .rFill 3 1 1 [] none).adcQ.length < (1 : Byte).toNat) :=
  ⟨by decide, ⟨rfl, rfl, rfl, rfl, rfl, rfl, rfl⟩, ⟨⟨⟨rfl, rfl, rfl, rfl, rfl, rfl, rfl⟩, ⟨0, rfl, by decide⟩, rfl⟩, ⟨⟨rfl, rfl, rfl, rfl, rfl, rfl, rfl⟩, ⟨3, rfl, by decide⟩, rfl⟩, rfl, rfl⟩, ⟨⟨rfl, rfl, rfl, rfl, rfl, rfl, rfl⟩, rfl⟩, ⟨rfl, rfl, rfl, rfl, rfl, rfl, rfl⟩, by decide⟩
theorem witness_BlockedEngineWaits_host :
    (hdAt .waitHdrAck readStore none).p2h = [] ∧ (hdAt .waitHdrAck readStore none).hd.state = .waitHdrAck ∧
    (hdAt .waitHdrAck readStore none).hd.hfs.frameLoaded = true ∧ (hdAt .wWaitFinal writeStore none).hd.state = .wWaitFinal ∧
    (hdAt .rWaitFinal readStore none).hd.state = .rWaitFinal ∧ State.reset.hd.state = .idle ∧ State.reset.opStart = false ∧
    (hdAt .retryPrompt readStore none).hd.state = .retryPrompt ∧ (hdAt .retryPrompt readStore none).opRetry = false := by decide
/-- A state over a Transport that holds senders back, its FIFOs without room: the other engine is not receiving. -/
def fullLine (s : State) : State :=
  { s with params := { Params.default with rxDepthPe := some 0, rxDepthHd := some 0, backPressure := true } }

theorem witness_BlockedEngineWaits_receive :
    let s := hdAt .rRecvPayload readStore (some 0)
    s.p2h = [] ∧ s.hd.state = .rRecvPayload ∧ s.hd.hfs.frameLoaded = true ∧ s.hd.cnt = some 0 ∧ s.hd.hfs.read 2 = some 1 ∧
    (0 : Cnt).toNat < (1 : Byte).toNat := by decide
theorem witness_BlockedEngineWaits_send_pe :
    (∀ st ∈ [PeState.sendNack, .wHdrAck, .wFinalAck, .rHdrAck, .rFinalAck],
      (fullLine (peAt st 0 1 2)).hasRoom .p2h = false ∧ (fullLine (peAt st 0 1 2)).pe.HeaderLive ∧
      (fullLine (peAt st 0 1 2)).pe.state = st) ∧
    (let s := fullLine (peHolding .rStream 3 1 1 [(0, 0x5A)] (some 0))
     s.hasRoom .p2h = false ∧ s.pe.state = .rStream ∧ s.pe.HeaderLive ∧ s.pe.cnt = some 0 ∧ s.pe.len = some 1 ∧
     (0 : Cnt).toNat < (1 : Byte).toNat ∧ s.pe.buf.read (0 : Cnt).toNat = some 0x5A) :=
  ⟨fun _ _ => ⟨rfl, ⟨rfl, rfl, rfl, rfl, rfl, rfl, rfl⟩, rfl⟩, rfl, rfl, ⟨rfl, rfl, rfl, rfl, rfl, rfl, rfl⟩, rfl, rfl, by decide, rfl⟩
theorem witness_BlockedEngineWaits_send_hd :
    let s (st : HdState) (c : Option Cnt) := fullLine { hdAt st writeStore c with pe := (peAt .wFinalAck 0 1 2).pe }
    (∀ st ∈ [HdState.wSendStop, .rSendStop], (s st none).hasRoom .h2p = false ∧ (s st none).hd.hfs.frameLoaded = true ∧
      (s st none).hd.state = st) ∧
    (∀ c ∈ [(0 : Cnt), 7], (s .sendHeader (some c)).hasRoom .h2p = false ∧ (s .sendHeader (some c)).hd.hfs.frameLoaded = true ∧
      (s .sendHeader (some c)).hd.cnt = some c ∧ c.toNat ≤ 7) ∧
    (s .wSendPayload (some 0)).hasRoom .h2p = false ∧ (s .wSendPayload (some 0)).hd.hfs.frameLoaded = true ∧
    (s .wSendPayload (some 0)).hd.hfs.read 2 = some 1 ∧ (0 : Cnt).toNat < (1 : Byte).toNat := by decide
theorem witness_CapabilityCallsOnlyWhereAllowed_write :
    let s := { peHolding .wDispatch 2 1 2 [(0, 0x5A)] none with devwQ := 1, script := [.run .pe] }
    after (step s) (fun t => t.trace == s.trace ++ [(.pe, .devw .lcd 2 [0x5A]), (.pe, .release)]) = true := by decide
theorem witness_CapabilityCallsOnlyWhereAllowed_read :
    let s := { peHolding .rFill 3 1 1 [] none with adcQ := [7], script := [.run .pe] }
    after (step s) (fun t => t.trace == s.trace ++ [(.pe, .devr .adc 3 1 [7])]) = true := by decide
theorem witness_ChannelOrderKept :
    midWrite.params.channelModel = .ideal ∧ midWrite.params.rxDepthPe = none ∧ midWrite.params.rxDepthHd = none ∧
    midWrite.ChannelInOrder ∧ ∃ t, step midWrite = .next t := ⟨rfl, rfl, rfl, ⟨by decide, by decide⟩, _, rfl⟩
theorem witness_BufferAccountingKept : midWrite.Inv ∧ midWrite.BufferAccounted ∧ ∃ t, step midWrite = .next t :=
  ⟨midWrite_inv, by unfold State.BufferAccounted; decide, _, rfl⟩
theorem witness_PortsTellTransfers_pe : midWrite.Inv ∧ midRead.Inv ∧
    (∃ t, agentStep .pe midWrite = .next t ∧ t.h2p ≠ midWrite.h2p) ∧
    (∃ t, agentStep .pe midRead = .next t ∧ t.p2h = midRead.p2h ++ [0x3C]) :=
  ⟨midWrite_inv, midRead_inv, ⟨_, rfl, by decide⟩, _, rfl, rfl⟩
theorem witness_PortsTellTransfers_hd : midRead.Inv ∧
    (∃ t, agentStep .hd midRead = .next t ∧ t.p2h ≠ midRead.p2h) := ⟨midRead_inv, _, rfl, by decide⟩
theorem witness_PortsTellTransfers_hd_tx :
    let s := { midWrite with hd := { midWrite.hd with cnt := some 1 }, h2p := [] }
    s.Inv ∧ ∃ t, agentStep .hd s = .next t ∧ t.h2p = s.h2p ++ [0xA5] := by
  refine ⟨⟨midWrite_inv.1, ⟨midWrite_inv.2.1.1, ⟨by decide, 2, rfl, by decide⟩, 1, 2, rfl, rfl, by decide⟩, ?_, ?_⟩, _, rfl, rfl⟩ <;>
    intro h <;> cases h

/-! ### Whole frames -/

/-- The peripheral scanning, a whole frame in flight toward it and every answer ready. -/
def frameAt (bytes : List Byte) (samples : List Byte) (moves : Nat) : State :=
  { State.reset with
    h2p := bytes ++ [0x0F], allocQ := [true], adcQ := samples, devwQ := 1, script := List.replicate moves (.run .pe) ++ [] }

theorem witness_WriteFrameDelivered : ∀ len ∈ [(0 : Byte), 0xFF],
    let payload := bytesOf len.toNat
    let s := frameAt (encode (wr len) ++ payload ++ [0x01]) [] (len.toNat + 16)
    writeFrame (wr len) = some (0, len) ∧ encode (wr len) = [0xFE, 0x00, len, 0x02, 0xDE, 0xAD, 0xBE, 0xEF] ∧
    payload.length = len.toNat ∧ s.pe.state = .waitStart ∧ s.pe.buf = [] ∧ s.params.allocModel = .oracle ∧
    s.params.backPressure = false ∧ s.h2p = encode (wr len) ++ payload ++ [0x01] ++ [0x0F] ∧ s.allocQ = true :: [] ∧
    s.devwQ = 0 + 1 ∧ s.script = List.replicate (len.toNat + 16) (.run .pe) ++ [] := by
  intro len _
  exact ⟨rfl, rfl, List.length_replicate, rfl, rfl, rfl, rfl, rfl, rfl, rfl, rfl⟩
theorem witness_WriteStopErrorNotDispatched : ∀ len ∈ [(0 : Byte), 0xFF],
    let payload := bytesOf len.toNat
    let s := frameAt (encode (wr len) ++ payload ++ [0xFE]) [] (len.toNat + 15)
    writeFrame (wr len) = some (0, len) ∧ encode (wr len) = [0xFE, 0x00, len, 0x02, 0xDE, 0xAD, 0xBE, 0xEF] ∧
    payload.length = len.toNat ∧ (0xFE : Byte) ≠ 0x01 ∧ s.pe.state = .waitStart ∧ s.pe.buf = [] ∧ s.params.allocModel = .oracle ∧
    s.params.backPressure = false ∧ s.h2p = encode (wr len) ++ payload ++ [0xFE] ++ [0x0F] ∧ s.allocQ = true :: [] ∧
    s.script = List.replicate (len.toNat + 15) (.run .pe) ++ [] := by
  intro len _
  exact ⟨rfl, rfl, List.length_replicate, by decide, rfl, rfl, rfl, rfl, rfl, rfl, rfl⟩
theorem witness_ReadFrameStreamed : ∀ len ∈ [(0 : Byte), 0xFF],
    let samples := bytesOf len.toNat
    let s := frameAt (encode (rd len) ++ [0x01]) (samples ++ [7]) (len.toNat + 16)
    encode (.readAdc 3 len ⟨0xDE, 0xAD, 0xBE, 0xEF⟩) = [0xFE, 0x03, len, 0x01, 0xDE, 0xAD, 0xBE, 0xEF] ∧
    samples.length = len.toNat ∧ s.pe.state = .waitStart ∧ s.pe.buf = [] ∧ s.params.allocModel = .oracle ∧
    s.params.backPressure = false ∧ s.h2p = encode (rd len) ++ [0x01] ++ [0x0F] ∧ s.allocQ = true :: [] ∧
    s.adcQ = samples ++ [7] ∧ s.script = List.replicate (len.toNat + 16) (.run .pe) ++ [] := by
  intro len _
  exact ⟨rfl, List.length_replicate, rfl, rfl, rfl, rfl, rfl, rfl, rfl, rfl⟩
theorem witness_HeaderErrorOneNack_common :
    let s := frameAt [0xFE, 0x04, 0xFF, 0x02, 1, 2, 3, 4] [] 10
    s.pe.state = .waitStart ∧ s.pe.alloc = false ∧ s.params.backPressure = false ∧
    s.h2p = [0xFE, 0x04, 0xFF, 0x02, 1, 2, 3, 4] ++ [0x0F] ∧ (0x04 : Byte) &&& 0xFC ≠ 0x00 ∧
    s.script = List.replicate 10 (.run .pe) ++ [] := by decide
theorem witness_HeaderErrorOneNack_mode :
    let s := frameAt [0xFE, 0x03, 0x00, 0x03, 1, 2, 3, 4] [] 11
    s.pe.state = .waitStart ∧ s.pe.alloc = false ∧ s.params.backPressure = false ∧
    s.h2p = [0xFE, 0x03, 0x00, 0x03, 1, 2, 3, 4] ++ [0x0F] ∧ (0x03 : Byte) &&& 0xFC = 0x00 ∧ (0x03 : Byte) ≠ 0x01 ∧
    (0x03 : Byte) ≠ 0x02 ∧ s.script = List.replicate 11 (.run .pe) ++ [] := by decide
theorem witness_HeaderErrorOneNack_alloc : ∀ mode ∈ [(0x01 : Byte), 0x02],
    let s := { frameAt [0xFE, 0x03, 0xFF, mode, 1, 2, 3, 4] [] 12 with allocQ := [false] }
    s.pe.state = .waitStart ∧ s.pe.alloc = false ∧ s.params.backPressure = false ∧
    s.h2p = [0xFE, 0x03, 0xFF, mode, 1, 2, 3, 4] ++ [0x0F] ∧ (0x03 : Byte) &&& 0xFC = 0x00 ∧ (mode = 0x01 ∨ mode = 0x02) ∧
    s.params.allocModel = .oracle ∧ s.allocQ = false :: [] ∧ s.script = List.replicate 12 (.run .pe) ++ [] := by decide

/-- The host idle with a stored frame, a given trigger, and all it will receive already in flight. -/
def cycleAt (store : List Byte) (incoming : List Byte) (moves : Nat) : State :=
  { hdAt .idle store none with
    opStart := true, p2h := incoming, script := List.replicate moves (.run .hd) ++ [] }

theorem witness_HostWriteCycle : ∀ len ∈ [(0 : Byte), 0xFF],
    let hdr := [0xFE, 0x03, len, 0x02, 1, 2, 3, 4]
    let s := cycleAt (storeOf len 0x02 0x00) [0x0F, 0xF0, 0x5A] (len.toNat + 13)
    hdr.length = 8 ∧ hdr[2]? = some len ∧ hdr[3]? = some 0x02 ∧ (0x02 : Byte) ≠ 0x01 ∧ (bytesOf len.toNat).length = len.toNat ∧
    s.hd.hfs.readSeq 0 (9 + len.toNat) = some (hdr ++ bytesOf len.toNat ++ [0x00]) ∧ s.hd.state = .idle ∧ s.opStart = true ∧
    s.params.backPressure = false ∧ s.p2h = 0x0F :: 0xF0 :: [0x5A] ∧
    s.script = List.replicate (len.toNat + 13) (.run .hd) ++ [] := by
  intro len _
  exact ⟨rfl, rfl, rfl, by decide, List.length_replicate, storeOf_readSeq len 0x02 0x00, rfl, rfl, rfl, rfl, rfl⟩
theorem witness_HostReadCycle : ∀ len ∈ [(0 : Byte), 0xFF],
    let hdr := [0xFE, 0x03, len, 0x01, 1, 2, 3, 4]
    let s := cycleAt (storeOf len 0x01 0x01) (0x0F :: (bytesOf len.toNat ++ 0x0F :: [0x5A])) (len.toNat + 13)
    hdr.length = 8 ∧ hdr[2]? = some len ∧ hdr[3]? = some 0x01 ∧ (bytesOf len.toNat).length = len.toNat ∧
    s.hd.hfs.readSeq 0 (9 + len.toNat) = some (hdr ++ bytesOf len.toNat ++ [0x01]) ∧ s.hd.state = .idle ∧ s.opStart = true ∧
    s.params.backPressure = false ∧ s.p2h = 0x0F :: (bytesOf len.toNat ++ 0x0F :: [0x5A]) ∧
    s.script = List.replicate (len.toNat + 13) (.run .hd) ++ [] := by
  intro len _
  exact ⟨rfl, rfl, rfl, List.length_replicate, storeOf_readSeq len 0x01 0x01, rfl, rfl, rfl, rfl, rfl⟩
theorem witness_HostRetrySendsSameHeader :
    let s := { cycleAt (storeOf 0 0x02 0x01) [0xF0, 0x5A] 0 with
      script := List.replicate 10 (Move.run .hd) ++ [Move.env (.op .retry)] ++ List.replicate 9 (Move.run .hd) ++ [] }
    [0xFE, 0x03, 0, 0x02, 1, 2, 3, (4 : Byte)].length = 8 ∧ s.hd.hfs.readSeq 0 8 = some [0xFE, 0x03, 0, 0x02, 1, 2, 3, 4] ∧
    s.hd.state = .idle ∧ s.opStart = true ∧ s.params.backPressure = false ∧ (0xF0 : Byte) ≠ 0x0F ∧ s.p2h = 0xF0 :: [0x5A] ∧
    s.script = List.replicate 10 (Move.run .hd) ++ [Move.env (.op .retry)] ++ List.replicate 9 (Move.run .hd) ++ [] := by decide

/-! ### The two engines together -/

theorem witness_EnginesStayInStep : midWrite.Inv ∧ midWrite.InStep ∧
    (∀ m, midWrite.script.head? = some m → m.Conforming) ∧ ∃ t, step midWrite = .next t :=
  ⟨midWrite_inv, midWrite_inStep, fun m h => by cases h; trivial, _, rfl⟩
theorem witness_EnginesStayInStep_read : midRead.Inv ∧ midRead.InStep ∧
    (∀ m, midRead.script.head? = some m → m.Conforming) ∧ ∃ t, step midRead = .next t :=
  ⟨midRead_inv, midRead_inStep, fun m h => by cases h; trivial, _, rfl⟩
theorem witness_HalfDuplex : midRead.Inv ∧ midRead.InStep ∧ midRead.PeSending :=
  ⟨midRead_inv, midRead_inStep, 1, 2, rfl, rfl, by decide⟩

/-- A Write cycle whose final acknowledgment is in flight, and a Read cycle whose final `NACK` is (stop byte 0x00). -/
def endWrite : State := { hdAt .wWaitFinal writeStore none with p2h := [0x0F] }
def endRead : State :=
  { hdAt .rWaitFinal [0xFE, 0x03, 0x01, 0x01, 0, 0, 0, 0, 0x00, 0x00] none with
    hd := { (hdAt .rWaitFinal [0xFE, 0x03, 0x01, 0x01, 0, 0, 0, 0, 0x00, 0x00] none).hd with hrx := [(0, 0xC3)] }
    p2h := [0xF0], trace := [(.pe, .devr .adc 3 1 [0xC3])] }

theorem witness_FinalReportIsDetermined_write : endWrite.Inv ∧ endWrite.InStep ∧ endWrite.hd.state = .wWaitFinal ∧
    ∃ t, agentStep .hd endWrite = .next t ∧ t.hd.state = .idle := by
  refine ⟨⟨⟨⟨rfl, rfl, rfl, rfl, rfl, rfl, rfl⟩, rfl, rfl, rfl⟩, ⟨⟨by decide, by decide, .inr (by decide), List.Pairwise.nil, by decide⟩,
      ⟨by decide, 2, rfl, by decide⟩, rfl⟩, ?_, ?_⟩,
    ⟨.inr rfl, .inr (.inr (.inr (.inl ⟨rfl, rfl, .inl rfl, rfl⟩)))⟩, rfl, _, rfl, rfl⟩ <;> intro h <;> cases h
theorem witness_FinalReportIsDetermined_read : endRead.Inv ∧ endRead.InStep ∧ endRead.hd.state = .rWaitFinal ∧
    ∃ t, agentStep .hd endRead = .next t ∧ t.hd.state = .idle := by
  refine ⟨⟨⟨⟨rfl, rfl, rfl, rfl, rfl, rfl, rfl⟩, rfl, rfl, rfl⟩, ⟨⟨by decide, by decide, .inr (by decide), by decide, by decide⟩,
      ⟨by decide, rfl⟩, rfl, 1, rfl, rfl⟩, ?_, ?_⟩,
    ⟨.inr rfl, .inr (.inr (.inr (.inr ⟨rfl, rfl, rfl, by decide, 1, rfl, rfl⟩)))⟩, rfl, _, rfl, rfl⟩ <;> intro h <;> cases h

/-- A Write cycle whose stop byte is in flight behind a delivered payload. -/
def stopWrite : State :=
  { hdAt .wWaitFinal writeStore none with
    pe := (peHolding .wStop 0 1 2 [(0, 0x5A)] none).pe, h2p := [0x01] }

theorem witness_PayloadIntact : stopWrite.Inv ∧ stopWrite.InStep ∧ stopWrite.pe.state = .wStop ∧ stopWrite.hd.state = .wWaitFinal ∧
    ∃ t, agentStep .pe stopWrite = .next t ∧ t.pe.state ≠ .wStop := by
  refine ⟨⟨⟨⟨⟨rfl, rfl, rfl, rfl, rfl, rfl, rfl⟩, ⟨0, rfl, by decide⟩, rfl⟩, rfl, rfl, 1, rfl, rfl⟩,
      ⟨⟨by decide, by decide, .inr (by decide), List.Pairwise.nil, by decide⟩, ⟨by decide, 2, rfl, by decide⟩, rfl⟩, ?_, ?_⟩,
    ⟨.inr rfl, .inl ⟨1, 1, rfl, rfl, rfl, ⟨rfl, rfl, rfl⟩, 1, [], by decide, rfl, rfl, rfl, .inr ⟨rfl, 1, rfl, rfl⟩⟩⟩,
    rfl, rfl, _, rfl, by decide⟩ <;> intro h <;> cases h

/-! ### The Transport's receive FIFO, and the codes of the ports -/

/-- Bounded FIFOs of a line that is not lossy, with bytes waiting and the peripheral in a state. -/
def boundedAt (st : PeState) (bp : Bool) (pe hd k : Nat) : State :=
  { peAt st 0 1 2 with
    params := { Params.default with rxDepthPe := some pe, rxDepthHd := some hd, backPressure := bp }
    h2p := List.replicate k 0xFE, p2h := List.replicate k 0x0F }

theorem witness_BoundedReceiveFifo_pe :
    (boundedAt .wDispatch false 8 1 9).params.channelModel = .ideal ∧ (boundedAt .wDispatch false 8 1 9).params.rxDepthPe = some 8 ∧
    (boundedAt .wDispatch false 8 1 8).h2p.length ≤ 8 ∧ (boundedAt .wPayload false 8 1 9).peRxReady = true ∧
    (boundedAt .wDispatch false 8 1 9).params.backPressure = false ∧ 8 < (boundedAt .wDispatch false 8 1 9).h2p.length ∧
    (boundedAt .wDispatch false 8 1 9).peRxReady = false ∧ (boundedAt .wPayload false 7 1 8).params.rxDepthPe = some 7 ∧
    7 < (boundedAt .wPayload false 7 1 8).h2p.length ∧ 7 < 8 ∧ (boundedAt .wPayload true 0 0 0).params.backPressure = true ∧
    (boundedAt .wPayload true 0 0 0).params.rxDepthPe = some 0 := by decide
theorem witness_BoundedReceiveFifo_hd :
    (boundedAt .wDispatch false 8 1 1).params.rxDepthHd = some 1 ∧ (boundedAt .wDispatch false 8 1 1).p2h.length ≤ 1 ∧
    (boundedAt .wDispatch false 8 1 2).params.backPressure = false ∧ 1 < (boundedAt .wDispatch false 8 1 2).p2h.length ∧
    (boundedAt .wDispatch false 8 1 2).hdRxReady = false ∧ (boundedAt .wDispatch false 8 0 1).params.rxDepthHd = some 0 ∧
    0 < (boundedAt .wDispatch false 8 0 1).p2h.length ∧ 0 < 1 ∧ (hdAt .rRecvPayload readStore (some 0)).hdRxReady = true ∧
    (boundedAt .wPayload true 0 0 0).params.rxDepthHd = some 0 := by decide

/-- A Write under way over FIFOs of just the needed depths. -/
def midWriteBounded : State :=
  { midWrite with params := { Params.default with rxDepthPe := some 8, rxDepthHd := some 1 } }

theorem witness_EightAndOneSuffice : midWriteBounded.Inv ∧ midWriteBounded.InStep ∧ midWriteBounded.params.channelModel = .ideal ∧
    (∀ n, midWriteBounded.params.rxDepthPe = some n → 8 ≤ n) ∧ (∀ n, midWriteBounded.params.rxDepthHd = some n → 1 ≤ n) :=
  ⟨midWrite_inv, midWrite_inStep, rfl, fun n h => by cases h; decide, fun n h => by cases h; decide⟩

theorem witness_PortCodes :
    (∀ e : Option Status, { State.reset with pe := { Pe.reset with evt := e } }.pe.evt = e) ∧
    (∀ r : Option Report, { State.reset with hd := { State.reset.hd with rpt := r } }.hd.rpt = r) := ⟨fun _ => rfl, fun _ => rfl⟩

end Sys2Proof.Tests
end

/-! ## Family `00_scope`: the opcode words, bounded receive FIFOs, channel order, reads inside the live ranges -/

namespace Sys2Proof.Machine

/-! ### The opcode words (R81, R91 to R93) -/

/-- Settles O1: seven header words, four tokens and two stored headers, each run through the decoder. -/
theorem opcodeWordsDecode : Obligations.OpcodeWordsDecode :=
  ⟨rfl, rfl, rfl, rfl, rfl, rfl, rfl, rfl, rfl, rfl, rfl, rfl, rfl⟩

/-! ### The bounded receive FIFO (R9, R40, R60, R293) -/

section
variable {s : State} {d : Dir} {n : Nat}

/-- An ideal channel is not lossy (R40). -/
theorem State.lossy_of_ideal (h : s.params.channelModel = .ideal) : s.lossy = false := by
  simp [State.lossy, h]

theorem State.hasRoom_of_no_backPressure (hb : s.params.backPressure = false) : s.hasRoom d = true :=
  (State.hasRoom_iff d).2 (.inl hb)

theorem State.hasRoom_iff_of_backPressure (hb : s.params.backPressure = true) (hn : s.rxDepth d = some n) :
    s.hasRoom d = true ↔ (s.queue d).length < n ∨ s.queue d = [] ∧ s.receives d = true := by
  simp [State.hasRoom_iff, hb, hn]

theorem State.mayLose_of_backPressure (hi : s.params.channelModel = .ideal) (hb : s.params.backPressure = true) :
    ¬s.mayLose d = true := by
  simp [State.mayLose_iff, State.lossy_of_ideal hi, hb]

/-- What an overrun of a bounded FIFO is on an ideal channel (log 11); back-pressure rules it out (log 12). -/
theorem State.mayLose_iff_overrun (hi : s.params.channelModel = .ideal) (hn : s.rxDepth d = some n) :
    s.mayLose d = true ↔ s.params.backPressure = false ∧
      n < (s.queue d).length ∧ (n < rxNeeded d ∨ s.receives d = false) := by
  simp [State.mayLose_iff, State.lossy_of_ideal hi, hn]

theorem envStep_chDelete_of_overrun (i : Nat) (hi : s.params.channelModel = .ideal) (hn : s.rxDepth d = some n)
    (hb : s.params.backPressure = false) (hlt : n < (s.queue d).length)
    (hlose : n < rxNeeded d ∨ s.receives d = false) :
    envStep (.chDelete d i) s = .next (s.setQueue d ((s.queue d).eraseIdx i)) :=
  if_pos ((State.mayLose_iff_overrun hi hn).2 ⟨hb, hlt, hlose⟩)

theorem envStep_chDelete_refused_of_kept (i : Nat) (hi : s.params.channelModel = .ideal) (hn : s.rxDepth d = some n)
    (hkept : (s.queue d).length ≤ n ∨ rxNeeded d ≤ n ∧ s.receives d = true) :
    envStep (.chDelete d i) s = .refused .channelFaultNotAdmitted := by
  refine envStep_chDelete_refused i fun hm => ?_
  obtain ⟨-, hlt, hlose⟩ := (State.mayLose_iff_overrun hi hn).1 hm
  rcases hkept with hle | ⟨hle, hr⟩
  · omega
  · rcases hlose with hlt' | hr'
    · omega
    · simp [hr] at hr'

end

/-- Settles O58: each direction is the same three facts about a queue, its depth and whether its receiver is receiving. -/
theorem boundedReceiveFifo : Obligations.BoundedReceiveFifo := by
  intro s i n b hi
  have hl : ¬s.lossy = true := by simp [State.lossy_of_ideal hi]
  refine ⟨fun d => ⟨if_neg hl, if_neg hl⟩,
    fun hb d => envStep_chDelete_refused i (State.mayLose_of_backPressure hi hb),
    fun hb d => State.hasRoom_of_no_backPressure hb, fun hn => ?_, fun hn => ?_⟩
  · exact ⟨envStep_chDelete_refused_of_kept (d := .h2p) i hi hn,
      envStep_chDelete_of_overrun (d := .h2p) i hi hn,
      fun hb => State.hasRoom_iff_of_backPressure (d := .h2p) hb hn⟩
  · exact ⟨envStep_chDelete_refused_of_kept (d := .p2h) i hi hn,
      envStep_chDelete_of_overrun (d := .p2h) i hi hn,
      fun hb => State.hasRoom_iff_of_backPressure (d := .p2h) hb hn⟩

/-! ### Bytes are received in the order sent, each once (R17, R60) -/

section
variable {s t : State}

/-- What the peripheral has received, with what still waits for it, is the same after any of its rows. -/
theorem PeRow.received_append_h2p (h : PeRow s t) :
    receivedBy .pe t.trace ++ t.h2p = receivedBy .pe s.trace ++ s.h2p := by
  cases h <;> simp [*]

/-- What the peripheral sends in a row, if anything, is what the row appends to its outgoing queue. -/
theorem PeRow.sent_eq_append_p2h (h : PeRow s t) {got : List Byte} (hi : sentBy .pe s.trace = got ++ s.p2h) :
    sentBy .pe t.trace = got ++ t.p2h := by
  cases h <;> simp [hi]

/-- A row of the peripheral is no event of the host. -/
theorem PeRow.host_views (h : PeRow s t) :
    sentBy .hd t.trace = sentBy .hd s.trace ∧ receivedBy .hd t.trace = receivedBy .hd s.trace := by
  cases h <;> simp

theorem HdRow.received_append_p2h (h : HdRow s t) :
    receivedBy .hd t.trace ++ t.p2h = receivedBy .hd s.trace ++ s.p2h := by
  cases h <;> simp [*]

theorem HdRow.sent_eq_append_h2p (h : HdRow s t) {got : List Byte} (hi : sentBy .hd s.trace = got ++ s.h2p) :
    sentBy .hd t.trace = got ++ t.h2p := by
  cases h <;> simp [hi]

theorem HdRow.peripheral_views (h : HdRow s t) :
    sentBy .pe t.trace = sentBy .pe s.trace ∧ receivedBy .pe t.trace = receivedBy .pe s.trace := by
  cases h <;> simp

theorem PeRow.channelInOrder (h : PeRow s t) (hi : s.ChannelInOrder) : t.ChannelInOrder := by
  obtain ⟨hdown, hup⟩ := hi
  obtain ⟨hsent, hgot⟩ := h.host_views
  refine ⟨?_, ?_⟩
  · rw [hsent, hdown, h.received_append_h2p]
  · rw [hgot, h.sent_eq_append_p2h hup]

theorem HdRow.channelInOrder (h : HdRow s t) (hi : s.ChannelInOrder) : t.ChannelInOrder := by
  obtain ⟨hdown, hup⟩ := hi
  obtain ⟨hsent, hgot⟩ := h.peripheral_views
  refine ⟨?_, ?_⟩
  · rw [hgot, h.sent_eq_append_h2p hdown]
  · rw [hsent, hup, h.received_append_p2h]

/-- On an ideal channel with unbounded FIFOs the environment loses no byte (R40). -/
theorem State.mayLose_of_unbounded {d : Dir} (hi : s.params.channelModel = .ideal) (hn : s.rxDepth d = none) :
    ¬s.mayLose d = true := by
  simp [State.mayLose_iff, State.lossy_of_ideal hi, hn]

/-- A move of the environment that touches no queue sends and receives nothing; the moves that touch one are not admitted here. -/
theorem EnvRow.channelInOrder {e : EnvMove} (h : EnvRow s e t) (hideal : s.params.channelModel = .ideal)
    (hunb : ∀ d, s.rxDepth d = none) (hi : s.ChannelInOrder) : t.ChannelInOrder := by
  have hl : ¬s.lossy = true := by simp [State.lossy_of_ideal hideal]
  cases h with
  | chDelete d i hm => exact absurd hm (State.mayLose_of_unbounded hideal (hunb d))
  | chAlter d i b hm => exact absurd hm hl
  | chInsert d i b hm => exact absurd hm hl
  | _ => simpa [State.ChannelInOrder] using hi

theorem State.afterChoice_channelInOrder (hi : s.ChannelInOrder) : s.afterChoice.ChannelInOrder := by
  simpa [State.ChannelInOrder] using hi

end

/-- Settles O44, by the rows of the two engines and the environment's moves. -/
theorem channelOrderKept : Obligations.ChannelOrderKept := by
  intro s t hideal hpe hhd hi h
  have hi' := State.afterChoice_channelInOrder hi
  rcases step_cases s with ⟨e, ms, -, hstep⟩ | ⟨a, hstep, -⟩ <;> rw [hstep] at h
  · refine (envRow_of_envStep h).channelInOrder (by simpa using hideal) (fun d => ?_) hi'
    cases d <;> simpa [State.rxDepth]
  · cases a with
    | pe => exact (peRow_of_agentStep h).channelInOrder hi'
    | hd => exact (hdRow_of_agentStep h).channelInOrder hi'

/-! ### No read outside a live range (R13, R27, R283): the peripheral -/

section
variable {s : State} {f : Fault} {id len mode : Byte} {c : Cnt} {p : Pe}

/-- The header registers are live in every state but those before the header is whole and `Halted`. -/
theorem Pe.Inv.headerLive (h : p.Inv) (h1 : p.state ≠ .waitStart) (h2 : p.state ≠ .readHeader)
    (h3 : p.state ≠ .halted) : p.HeaderLive := by
  cases hs : p.state <;> simp only [Pe.Inv, hs] at h
  case waitStart => exact absurd hs h1
  case readHeader => exact absurd hs h2
  case halted => exact absurd hs h3
  case validateBoard => exact h.1
  case validateMode => exact h.1
  case sendNack => exact h.1
  case allocateBuffer => exact h.1.elim (·.1) (·.1)
  all_goals exact h.1.1

/-- With every header register live, running the header is the row with those registers' values. -/
theorem Pe.HeaderLive.runFetched_header (h : p.HeaderLive) :
    ∃ id len mode, p.len = some len ∧ ∀ u, runFetched p.header u = peHeaderRow id len mode u := by
  simp only [Pe.HeaderLive, Option.isSome_iff_exists] at h
  obtain ⟨⟨id, hid⟩, ⟨len, hlen⟩, ⟨mode, hmode⟩, ⟨r0, h0⟩, ⟨r1, h1⟩, ⟨r2, h2⟩, ⟨r3, h3⟩⟩ := h
  refine ⟨id, len, mode, hlen, fun u => ?_⟩
  simp only [Pe.header, hid, hlen, hmode, h0, h1, h2, h3]
  exact exec_decodeHeader id len mode ⟨r0, r1, r2, r3⟩ u

theorem rowReadHeader_ne_fault (hc : s.pe.cnt = some c) (h1 : 1 ≤ c.toNat) (h7 : c.toNat ≤ 7) :
    rowReadHeader s ≠ .fault f := by
  rw [rowReadHeader, hc, need_some, if_pos ⟨h1, h7⟩]
  intro h
  obtain ⟨b, q, -, h⟩ := peRecv_eq_fault.1 h
  simp only at h
  split at h <;> cases h

theorem rowValidateBoard_ne_fault : rowValidateBoard id s ≠ .fault f := by
  unfold rowValidateBoard
  split <;> simp

theorem rowValidateMode_ne_fault : rowValidateMode mode s ≠ .fault f := by
  unfold rowValidateMode
  split <;> simp

theorem rowAllocate_ne_fault : rowAllocate len mode s ≠ .fault f := by
  unfold rowAllocate
  split <;> simp

theorem rowSendNack_ne_fault : rowSendNack s ≠ .fault f := by
  simp [rowSendNack, peSend_eq_fault]

theorem rowWHdrAck_ne_fault : rowWHdrAck s ≠ .fault f := by
  simp [rowWHdrAck, peSend_eq_fault]

/-- A row that counts up to the payload length has a case for every counter value within its range (R22, R32). -/
theorem Cnt.countRow_ne_fault {more done : Out} (hle : c.toNat ≤ len.toNat)
    (hmore : c.toNat < len.toNat → more ≠ .fault f) (hdone : done ≠ .fault f) :
    (if c < Cnt.ofByte len then more else if c = Cnt.ofByte len then done else .fault .counterOutOfRange) ≠ .fault f := by
  split
  · exact hmore ((Cnt.lt_ofByte c len).1 ‹_›)
  · rename_i hnlt
    rw [Cnt.lt_ofByte] at hnlt
    rwa [if_pos ((Cnt.eq_ofByte c len).2 (by omega))]

theorem rowWPayload_ne_fault (hc : s.pe.cnt = some c) (hle : c.toNat ≤ len.toNat) : rowWPayload len s ≠ .fault f := by
  rw [rowWPayload, hc, need_some]
  exact Cnt.countRow_ne_fault hle (fun _ => by simp [peRecv_eq_fault]) (by simp)

theorem rowWFinalAck_ne_fault : rowWFinalAck s ≠ .fault f := by
  simp [rowWFinalAck, peSend_eq_fault]

/-- The whole payload of a filled buffer can be read. -/
theorem Memory.Filled.readSeq_isSome {m : Memory} {n : Nat} (h : m.Filled n) : (m.readSeq 0 n).isSome :=
  Memory.readSeq_isSome.2 fun i hi => (h.read_isSome _).2 (by omega)

theorem rowWDispatch_ne_fault {d : DevId} (hb : s.pe.buf.Filled len.toNat) : rowWDispatch d len s ≠ .fault f := by
  obtain ⟨bytes, hb⟩ := Option.isSome_iff_exists.1 hb.readSeq_isSome
  unfold rowWDispatch
  split
  · simp
  · rw [hb, need_some]
    simp

theorem rowRHdrAck_ne_fault : rowRHdrAck s ≠ .fault f := by
  simp [rowRHdrAck, peSend_eq_fault]

theorem rowRFill_ne_fault {d : DevId} : rowRFill d len s ≠ .fault f := by
  unfold rowRFill
  split <;> simp

theorem rowRStream_ne_fault (hc : s.pe.cnt = some c) (hle : c.toNat ≤ len.toNat) (hb : s.pe.buf.Filled len.toNat) :
    rowRStream len s ≠ .fault f := by
  rw [rowRStream, hc, need_some]
  refine Cnt.countRow_ne_fault hle (fun hlt => ?_) (by simp)
  obtain ⟨b, hb⟩ := Option.isSome_iff_exists.1 ((hb.read_isSome c.toNat).2 hlt)
  simp [hb, need_some, peSend_eq_fault]

theorem rowRFinalAck_ne_fault : rowRFinalAck s ≠ .fault f := by
  simp [rowRFinalAck, peSend_eq_fault]

/-- A byte read in `WaitStart` is a token of that position. -/
theorem exec_decodeWaitStart_ne_fault (b : Byte) (hs : s.pe.state = .waitStart) :
    exec (decodeWaitStart b) s ≠ .fault f := by
  unfold decodeWaitStart
  split <;> simp [exec, execStart, execDiscard, hs, peTake_eq_fault]

/-- A byte read at a stop position is a token of that position. -/
theorem exec_decodeStop_ne_fault (b : Byte) (hs : s.pe.state = .wStop ∨ s.pe.state = .rStop) :
    exec (decodeStop b) s ≠ .fault f := by
  unfold decodeStop
  rcases hs with hs | hs <;> split <;> simp [exec, execStop, execStopBad, hs, peTake_eq_fault]

/-- Waiting for a token is no fault, so a token position faults only as one of its tokens does. -/
theorem runFetched_tokenAt_ne_fault {read : Byte → Instr} {q : List Byte} (h : ∀ b, exec (read b) s ≠ .fault f) :
    runFetched (tokenAt read q) s ≠ .fault f := by
  cases q with
  | nil => simp [tokenAt, runFetched]
  | cons b q => exact h b

/-- A peripheral whose registers, counter and buffer hold what its state says never faults. -/
theorem agentStep_pe_ne_fault (hi : s.pe.Inv) : agentStep .pe s ≠ .fault f := by
  have hst : s.dropPePulses.pe.state = s.pe.state := rfl
  have hlive := hi.headerLive
  simp only [agentStep, peFetch]
  cases hs : s.pe.state <;> simp only [hs] at hst ⊢ <;> simp only [Pe.Inv, hs] at hi
  case waitStart => exact runFetched_tokenAt_ne_fault fun b => exec_decodeWaitStart_ne_fault b hst
  case readHeader =>
    obtain ⟨⟨c, hc, h1, h7, -⟩, -⟩ := hi
    exact rowReadHeader_ne_fault hc h1 h7
  case wStop => exact runFetched_tokenAt_ne_fault fun b => exec_decodeStop_ne_fault b (.inl hst)
  case rStop => exact runFetched_tokenAt_ne_fault fun b => exec_decodeStop_ne_fault b (.inr hst)
  case halted => simp [runFetched]
  all_goals
    obtain ⟨id, len, mode, hlen, hrun⟩ := (hlive (by simp [hs]) (by simp [hs]) (by simp [hs])).runFetched_header
    rw [hrun]
    simp only [peHeaderRow, hst]
  case validateBoard => exact rowValidateBoard_ne_fault
  case validateMode => exact rowValidateMode_ne_fault
  case allocateBuffer => exact rowAllocate_ne_fault
  case sendNack => exact rowSendNack_ne_fault
  case wHdrAck => exact rowWHdrAck_ne_fault
  case wPayload =>
    obtain ⟨-, -, c, len', hc, hlen', hle, -⟩ := hi
    cases hlen.symm.trans hlen'
    exact rowWPayload_ne_fault hc hle
  case wFinalAck => exact rowWFinalAck_ne_fault
  case wDispatch =>
    obtain ⟨-, -, -, len', hlen', hb⟩ := hi
    cases hlen.symm.trans hlen'
    exact rowWDispatch_ne_fault hb
  case rHdrAck => exact rowRHdrAck_ne_fault
  case rFill => exact rowRFill_ne_fault
  case rStream =>
    obtain ⟨-, ⟨-, len₁, hlen₁, hb⟩, c, len₂, hc, hlen₂, hle⟩ := hi
    cases hlen.symm.trans hlen₁
    cases hlen.symm.trans hlen₂
    exact rowRStream_ne_fault hc hle hb
  case rFinalAck => exact rowRFinalAck_ne_fault

end

/-! ### No read outside a live range (R13, R27, R283): the host -/

section
variable {s : State} {f : Fault} {len : Byte} {c : Cnt} {m : Memory}

/-- A whole frame definition holds a value at each of its addresses (R34). -/
theorem Memory.frameLoaded_read (h : m.frameLoaded = true) :
    ∃ len, m.read 2 = some len ∧ ∀ i, i < 9 + len.toNat → ∃ b, m.read i = some b := by
  unfold Memory.frameLoaded at h
  split at h
  · rename_i len hlen
    refine ⟨len, hlen, fun i hi => Option.isSome_iff_exists.1 ?_⟩
    simpa using Memory.readSeq_isSome.1 h i hi
  · cases h

/-- A loaded frame's address within its length, the length being the stored one. -/
theorem Memory.frameLoaded_read_of_lt (h : m.frameLoaded = true) (hlen : m.read 2 = some len) {i : Nat}
    (hi : i < 9 + len.toNat) : ∃ b, m.read i = some b := by
  obtain ⟨len', hlen', hread⟩ := Memory.frameLoaded_read h
  cases hlen.symm.trans hlen'
  exact hread i hi

/-- With a frame loaded, running the stored header is the host's row with the stored length. -/
theorem Hd.runFetched_stored {h : Hd} (hf : h.hfs.frameLoaded = true) :
    ∃ len, h.hfs.read 2 = some len ∧ ∀ u, runFetched h.stored u = hdStoreRow len u := by
  obtain ⟨len, hlen, hread⟩ := Memory.frameLoaded_read hf
  refine ⟨len, hlen, fun u => ?_⟩
  obtain ⟨b0, h0⟩ := hread 0 (by omega)
  obtain ⟨b1, h1⟩ := hread 1 (by omega)
  obtain ⟨b3, h3⟩ := hread 3 (by omega)
  obtain ⟨b4, h4⟩ := hread 4 (by omega)
  obtain ⟨b5, h5⟩ := hread 5 (by omega)
  obtain ⟨b6, h6⟩ := hread 6 (by omega)
  obtain ⟨b7, h7⟩ := hread 7 (by omega)
  simp only [Hd.stored, Memory.readSeq, Nat.reduceAdd, h0, h1, hlen, h3, h4, h5, h6, h7]
  exact exec_decodeStore b0 b1 len b3 ⟨b4, b5, b6, b7⟩ u

theorem rowIdle_ne_fault : rowIdle s ≠ .fault f := by
  unfold rowIdle
  split <;> simp

theorem rowRetryPrompt_ne_fault : rowRetryPrompt s ≠ .fault f := by
  unfold rowRetryPrompt
  split <;> simp

theorem rowSendHeader_ne_fault (hf : s.hd.hfs.frameLoaded = true) (hc : s.hd.cnt = some c) (h7 : c.toNat ≤ 7) :
    rowSendHeader s ≠ .fault f := by
  obtain ⟨len, -, hread⟩ := Memory.frameLoaded_read hf
  obtain ⟨b, hb⟩ := hread (hfsHeaderAddr c) (by unfold hfsHeaderAddr; omega)
  rw [rowSendHeader, hc, need_some, if_pos h7, hb, need_some]
  intro h
  obtain ⟨-, h⟩ := hdSend_eq_fault.1 h
  split at h <;> cases h

theorem rowWSendPayload_ne_fault (hf : s.hd.hfs.frameLoaded = true) (hlen : s.hd.hfs.read 2 = some len)
    (hc : s.hd.cnt = some c) (hle : c.toNat ≤ len.toNat) : rowWSendPayload len s ≠ .fault f := by
  rw [rowWSendPayload, hc, need_some]
  refine Cnt.countRow_ne_fault hle (fun hlt => ?_) (by simp)
  have haddr : hfsPayloadAddr c = 8 + c.toNat := hfsPayloadAddr_eq (by have := len.isLt; omega)
  obtain ⟨b, hb⟩ := Memory.frameLoaded_read_of_lt hf hlen (i := hfsPayloadAddr c) (by omega)
  simp [hb, need_some, hdSend_eq_fault]

/-- The stop byte of a loaded frame holds a value (R34, R120). -/
theorem Memory.frameLoaded_read_stop (hf : m.frameLoaded = true) (hlen : m.read 2 = some len) :
    ∃ b, m.read (hfsStopAddr len) = some b :=
  Memory.frameLoaded_read_of_lt hf hlen (by rw [hfsStopAddr_eq]; omega)

theorem rowWSendStop_ne_fault (hf : s.hd.hfs.frameLoaded = true) (hlen : s.hd.hfs.read 2 = some len) :
    rowWSendStop len s ≠ .fault f := by
  obtain ⟨b, hb⟩ := Memory.frameLoaded_read_stop hf hlen
  simp [rowWSendStop, hb, need_some, hdSend_eq_fault]

theorem rowRSendStop_ne_fault (hf : s.hd.hfs.frameLoaded = true) (hlen : s.hd.hfs.read 2 = some len) :
    rowRSendStop len s ≠ .fault f := by
  obtain ⟨b, hb⟩ := Memory.frameLoaded_read_stop hf hlen
  simp [rowRSendStop, hb, need_some, hdSend_eq_fault]

theorem rowRRecvPayload_ne_fault (hc : s.hd.cnt = some c) (hle : c.toNat ≤ len.toNat) :
    rowRRecvPayload len s ≠ .fault f := by
  rw [rowRRecvPayload, hc, need_some]
  exact Cnt.countRow_ne_fault hle (fun _ => by simp [hdRecv_eq_fault]) (by simp)

/-- A header acknowledgment reads the stored mode, which a loaded frame holds (R205). -/
theorem hdAckRow_header_ne_fault (b : Byte) (hs : s.hd.state = .waitHdrAck) (hf : s.hd.hfs.frameLoaded = true) :
    hdAckRow b s ≠ .fault f := by
  obtain ⟨len, -, hread⟩ := Memory.frameLoaded_read hf
  obtain ⟨mode, hmode⟩ := hread 3 (by omega)
  simp only [hdAckRow, hs, hmode, need_some]
  split <;> simp [hdTakeAck_eq_fault]

theorem hdAckRow_final_ne_fault (b : Byte) (hs : s.hd.state = .wWaitFinal ∨ s.hd.state = .rWaitFinal) :
    hdAckRow b s ≠ .fault f := by
  rcases hs with hs | hs <;> simp [hdAckRow, hs, hdTakeAck_eq_fault]

/-- A byte read at an acknowledgment position faults only as its row does. -/
theorem runFetched_ack_ne_fault {q : List Byte} (h : ∀ b, hdAckRow b s ≠ .fault f) :
    runFetched (tokenAt decodeAck q) s ≠ .fault f :=
  runFetched_tokenAt_ne_fault fun b => by rw [exec_decodeAck]; exact h b

/-- A driver whose counter and stores hold what its state says never faults with a frame loaded. -/
theorem agentStep_hd_ne_fault (hi : s.hd.Inv) (hf : s.hd.hfs.frameLoaded = true) : agentStep .hd s ≠ .fault f := by
  have hst : s.dropHdPulses.hd.state = s.hd.state := rfl
  obtain ⟨len, hlen, hrun⟩ := Hd.runFetched_stored hf
  obtain ⟨-, hi⟩ := hi
  simp only [agentStep, hdFetch]
  cases hs : s.hd.state <;> simp only [hs] at hst hi ⊢
  case waitHdrAck => exact runFetched_ack_ne_fault fun b => hdAckRow_header_ne_fault b hst hf
  case wWaitFinal => exact runFetched_ack_ne_fault fun b => hdAckRow_final_ne_fault b (.inl hst)
  case rWaitFinal => exact runFetched_ack_ne_fault fun b => hdAckRow_final_ne_fault b (.inr hst)
  case fatal => simp [runFetched]
  case idle =>
    split
    · simp only [hrun, hdStoreRow, hst]
      exact rowIdle_ne_fault
    · simp [runFetched]
  case retryPrompt =>
    split
    · simp only [hrun, hdStoreRow, hst]
      exact rowRetryPrompt_ne_fault
    · simp [runFetched]
  all_goals simp only [hrun, hdStoreRow, hst]
  case sendHeader =>
    obtain ⟨-, c, hc, h7⟩ := hi
    exact rowSendHeader_ne_fault hf hc h7
  case wSendPayload =>
    obtain ⟨-, c, len', hc, hlen', hle⟩ := hi
    cases hlen.symm.trans hlen'
    exact rowWSendPayload_ne_fault hf hlen hc hle
  case wSendStop => exact rowWSendStop_ne_fault hf hlen
  case rSendStop => exact rowRSendStop_ne_fault hf hlen
  case rRecvPayload =>
    obtain ⟨-, c, len', hc, hlen', hle, -⟩ := hi
    cases hlen.symm.trans hlen'
    exact rowRRecvPayload_ne_fault hc hle

/-- A driver with an empty frame store stands in `Idle` or has stopped: every other state needs a frame (R283). -/
theorem Hd.Inv.state_of_hfs_nil {h : Hd} (hi : h.Inv) (hn : h.hfs = []) : h.state = .idle ∨ h.state = .fatal := by
  have hf : ¬h.hfs.frameLoaded = true := by simp [hn, Memory.frameLoaded, Memory.read]
  obtain ⟨-, hi⟩ := hi
  cases hs : h.state <;> simp only [hs] at hi
  case idle => exact .inl rfl
  case fatal => exact .inr rfl
  case sendHeader => exact absurd hi.1 hf
  case waitHdrAck => exact absurd hi.1 hf
  case retryPrompt => exact absurd hi.1 hf
  all_goals exact absurd hi.1.1 hf

/-- Over an empty frame store the driver faults only as it takes the operator's start. -/
theorem agentStep_hd_fault_of_hfs_nil (hi : s.hd.Inv) (hn : s.hd.hfs = []) (h : agentStep .hd s = .fault f) :
    f = .storeNotLoaded ∧ s.hd.state = .idle ∧ s.opStart = true := by
  simp only [agentStep, hdFetch] at h
  rcases hi.state_of_hfs_nil hn with hs | hs <;> simp only [hs] at h
  · split at h
    · simp only [Hd.stored, hn, Memory.readSeq, Memory.read, runFetched] at h
      cases h
      exact ⟨rfl, hs, ‹_›⟩
    · cases h
  · cases h

end

/-- Settles O38: the peripheral never faults, and the host has either a whole frame loaded or nothing at all. -/
theorem noReadOutsideLiveRange : Obligations.NoReadOutsideLiveRange := by
  rintro s f ⟨hpe, hhd, -, -⟩ h
  rcases step_cases s with ⟨e, ms, -, hstep⟩ | ⟨a, hstep, -⟩ <;> rw [hstep] at h
  · exact absurd h (envStep_ne_fault e _ f)
  · cases a with
    | pe => exact absurd h (agentStep_pe_ne_fault (by simpa using hpe))
    | hd =>
      have ⟨⟨_, _, hfs, _, _⟩, _⟩ := hhd
      rcases hfs with hn | hf
      · obtain ⟨hf, hs, ho⟩ := agentStep_hd_fault_of_hfs_nil (by simpa using hhd) (by simpa using hn) h
        exact ⟨hf, by simpa using hs, by simpa using ho, hn⟩
      · exact absurd h (agentStep_hd_ne_fault (by simpa using hhd) (by simpa using hf))

end Sys2Proof.Machine

/-! ## Family `10_state`: live ranges, buffer accounting, frames, the engines' separation, ports, the rows that move data -/

namespace Sys2Proof.Machine

/-! ### Live ranges: the peripheral (R22, R24, R27) -/

section
variable {s t : State} {p : Pe} {c : Cnt} {b : Byte}

/-- A peripheral that holds no buffer keeps nothing in `BUF`, whatever its state (R24, R27). -/
theorem Pe.Inv.noBuffer (h : p.Inv) (ha : p.alloc = false) : p.NoBuffer := by
  cases hs : p.state <;> simp only [Pe.Inv, hs] at h
  case waitStart => exact h.2.2
  case readHeader => exact h.2
  case validateBoard => exact h.2.2
  case validateMode => exact h.2.2.1
  case allocateBuffer => exact h.2.2
  case sendNack => exact h.2.2.resolve_right fun hf => by simp [hf.1] at ha
  case rStop => exact h.2.2
  case rFinalAck => exact h.2.2
  case halted => exact h.2
  all_goals simp [Pe.Full, ha] at h

/-- A peripheral as at reset, but for its pulses, meets the invariant when it holds no buffer (R39). -/
theorem Pe.Inv.of_reset (hb : p.NoBuffer) (e : Option Status) (r : Bool) :
    Pe.Inv { Pe.reset with alloc := p.alloc, buf := p.buf, evt := e, bufRelease := r } :=
  ⟨⟨rfl, rfl, rfl, rfl, rfl, rfl, rfl⟩, rfl, hb⟩

/-- The start marker opens the live range of the first register (R153). -/
theorem Pe.NoHeader.headerArriving (h : p.NoHeader) (hc : p.cnt = some 1) : p.HeaderArriving := by
  obtain ⟨h1, h2, h3, h4, h5, h6, h7⟩ := h
  exact ⟨1, hc, by decide, by decide, by simp [h1, h2, h3, h4, h5, h6, h7]⟩

/-- Each header byte opens the live range of its own register (R154). -/
theorem Pe.HeaderArriving.storeHeader (h : p.HeaderArriving) (hc : p.cnt = some c) (h7 : c.toNat < 7) :
    Pe.HeaderArriving ((p.storeHeader c.toNat b).setCnt (some (c + 1))) := by
  obtain ⟨c', hc', h1, -, hregs⟩ := h
  cases hc.symm.trans hc'
  refine ⟨c + 1, rfl, ?_⟩
  rw [Cnt.toNat_succ (by omega)]
  generalize c.toNat = k at *
  interval_cases k <;> simp_all [Pe.storeHeader]

/-- With the seventh byte the whole header is live (R154). -/
theorem Pe.HeaderArriving.headerLive (h : p.HeaderArriving) (hc : p.cnt = some c) (h7 : c.toNat = 7) :
    Pe.HeaderLive { p with rsv3 := some b } := by
  obtain ⟨c', hc', -, -, hregs⟩ := h
  cases hc.symm.trans hc'
  simp_all [Pe.HeaderLive]

/-- A header whose mode passes the check selects the Write flow or the Read flow (R114, R159). -/
theorem Pe.HeaderLive.writing_or_reading (h : p.HeaderLive) (hid : ∃ id, p.id = some id ∧ validateBoard id = true)
    {m : Byte} (hm : p.mode = some m) (hv : validateMode m = true) : p.Writing ∨ p.Reading := by
  simp only [validateMode, Bool.or_eq_true, beq_iff_eq] at hv
  rcases hv with rfl | rfl
  · exact .inr ⟨h, hid, hm⟩
  · exact .inl ⟨h, hid, hm⟩

/-- Every row of the peripheral keeps what its states say of registers, counter and buffer. -/
theorem PeRow.inv (h : PeRow s t) (hi : s.pe.Inv) : t.pe.Inv := by
  cases h with
  | wait => exact hi
  | start q hs hq =>
    simp only [Pe.Inv, hs] at hi
    obtain ⟨hh, -, hb⟩ := hi
    exact ⟨Pe.NoHeader.headerArriving hh rfl, hb⟩
  | discard b q hs hb hq => exact hi
  | header c b q hs hc h1 h7 hq =>
    simp only [Pe.Inv, hs] at hi
    obtain ⟨hh, hb⟩ := hi
    exact ⟨hh.storeHeader hc h7, by simpa [Pe.NoBuffer] using hb⟩
  | headerLast c b q hs hc h7 hq =>
    simp only [Pe.Inv, hs] at hi
    obtain ⟨hh, hb⟩ := hi
    exact ⟨hh.headerLive hc h7, rfl, hb⟩
  | boardGood id hs hid hv =>
    simp only [Pe.Inv, hs] at hi
    obtain ⟨hh, -, hb⟩ := hi
    exact ⟨hh, rfl, hb, id, hid, hv⟩
  | boardBad id hs hid hv =>
    simp only [Pe.Inv, hs] at hi
    obtain ⟨hh, -, hb⟩ := hi
    exact ⟨hh, rfl, .inl hb⟩
  | modeGood m hs hm hv =>
    simp only [Pe.Inv, hs] at hi
    obtain ⟨hh, -, hb, hid⟩ := hi
    exact ⟨hh.writing_or_reading hid hm hv, rfl, hb⟩
  | modeBad m hs hm hv =>
    simp only [Pe.Inv, hs] at hi
    obtain ⟨hh, -, hb, -⟩ := hi
    exact ⟨hh, rfl, .inl hb⟩
  | allocated len m q hs hl hm =>
    simp only [Pe.Inv, hs] at hi
    obtain ⟨hflow, -, -, hbuf⟩ := hi
    rcases hflow with hw | hr
    · cases hm.symm.trans hw.2.2
      exact ⟨hw, rfl, rfl, hbuf⟩
    · cases hm.symm.trans hr.2.2
      exact ⟨hr, rfl, rfl, hbuf⟩
  | notAllocated len q hs hl =>
    simp only [Pe.Inv, hs] at hi
    obtain ⟨hflow, -, hb⟩ := hi
    exact ⟨hflow.elim (·.1) (·.1), rfl, .inl hb⟩
  | nackRelease hs ha => exact Pe.Inv.of_reset (p := Pe.reset) ⟨rfl, rfl⟩ _ _
  | nackOnly hs ha => exact Pe.Inv.of_reset (hi.noBuffer ha) _ _
  | writeAck hs =>
    simp only [Pe.Inv, hs] at hi
    obtain ⟨hw, -, ha, hbuf⟩ := hi
    obtain ⟨len, hlen⟩ := Option.isSome_iff_exists.1 hw.1.2.1
    exact ⟨hw, ha, 0, len, rfl, hlen, Nat.zero_le _, hbuf ▸ Memory.filled_nil⟩
  | payload c len b q hs hc hl hlt hq =>
    simp only [Pe.Inv, hs] at hi
    obtain ⟨hw, ha, c', -, hc', -, -, hfill⟩ := hi
    cases hc.symm.trans hc'
    have hsucc := Cnt.toNat_succ (c := c) (by have := len.isLt; omega)
    exact ⟨hw, ha, c + 1, len, rfl, hl, by omega, hsucc ▸ hfill.write b⟩
  | payloadDone c len hs hc hl heq =>
    simp only [Pe.Inv, hs] at hi
    obtain ⟨hw, ha, c', -, hc', -, -, hfill⟩ := hi
    cases hc.symm.trans hc'
    exact ⟨hw, rfl, ha, len, hl, heq ▸ hfill⟩
  | writeStop q hs hq =>
    simp only [Pe.Inv, hs] at hi
    obtain ⟨hw, -, hfull⟩ := hi
    exact ⟨hw, rfl, hfull⟩
  | stopBad b q hs hb hq =>
    rcases hs with hs | hs
    · simp only [Pe.Inv, hs] at hi
      obtain ⟨hw, -, hfull⟩ := hi
      exact ⟨hw.1, rfl, .inr hfull⟩
    · simp only [Pe.Inv, hs] at hi
      obtain ⟨hr, -, hb⟩ := hi
      exact ⟨hr.1, rfl, .inl hb⟩
  | writeFinalAck hs =>
    simp only [Pe.Inv, hs] at hi
    obtain ⟨hw, -, hfull⟩ := hi
    exact ⟨hw, rfl, hfull⟩
  | dispatch id len n bytes hs hid hl hn hb => exact Pe.Inv.of_reset (p := Pe.reset) ⟨rfl, rfl⟩ _ _
  | readAck hs =>
    simp only [Pe.Inv, hs] at hi
    obtain ⟨hr, -, hbuf⟩ := hi
    exact ⟨hr, rfl, hbuf⟩
  | fill id len samples q hs hid hl hq hn =>
    simp only [Pe.Inv, hs] at hi
    obtain ⟨hr, -, ha, hbuf⟩ := hi
    have hfill : (s.pe.buf.writeSeq 0 samples).Filled len.toNat := by
      simpa [hbuf, hn] using Memory.filled_nil.writeSeq samples
    exact ⟨hr, ⟨ha, len, hl, hfill⟩, 0, len, rfl, hl, Nat.zero_le _⟩
  | stream c len b hs hc hl hlt hb =>
    simp only [Pe.Inv, hs] at hi
    obtain ⟨hr, hfull, -⟩ := hi
    have hsucc := Cnt.toNat_succ (c := c) (by have := len.isLt; omega)
    exact ⟨hr, hfull, c + 1, len, rfl, hl, by omega⟩
  | streamDone c len hs hc hl heq =>
    simp only [Pe.Inv, hs] at hi
    obtain ⟨hr, -, -⟩ := hi
    exact ⟨hr, rfl, rfl, rfl⟩
  | readStop q hs hq =>
    simp only [Pe.Inv, hs] at hi
    obtain ⟨hr, -, hb⟩ := hi
    exact ⟨hr, rfl, hb⟩
  | readFinalAck hs =>
    simp only [Pe.Inv, hs] at hi
    obtain ⟨-, -, hb⟩ := hi
    exact Pe.Inv.of_reset hb _ _

end

/-! ### Live ranges: the host (R32, R34, R35) -/

section
variable {s t : State} {h : Hd} {m : Memory} {len : Byte}

/-- A frame store from which a header can be read is not the empty one, so it holds a whole frame (R34). -/
theorem Hd.StoresOk.frameLoaded (hi : h.StoresOk) (hr : (h.hfs.readSeq 0 8).isSome) : h.hfs.frameLoaded = true := by
  obtain ⟨-, -, hn | hf, -⟩ := hi
  · simp [hn, Memory.readSeq, Memory.read] at hr
  · exact hf

/-- A byte received below the payload length keeps `HRX` canonical and inside its address space (R35). -/
theorem Hd.StoresOk.write_hrx (hi : h.StoresOk) {a : Nat} (ha : a < Config.hrxCap) (b : Byte) :
    (h.setHrx (h.hrx.write a b)).StoresOk := by
  obtain ⟨hw, hlt, hf, hrw, hrlt⟩ := hi
  refine ⟨hw, hlt, hf, Memory.write_wf a b hrw, fun c hc => ?_⟩
  rcases Memory.mem_write hc with rfl | hc
  · exact ha
  · exact hrlt c hc

theorem Hd.StoresOk.truncate_hrx (hi : h.StoresOk) (n : Nat) : (h.setHrx (h.hrx.truncate n)).StoresOk := by
  obtain ⟨hw, hlt, hf, hrw, hrlt⟩ := hi
  exact ⟨hw, hlt, hf, Memory.truncate_wf n hrw, fun c hc => hrlt c (List.mem_of_mem_filter hc)⟩

/-- A canonical store whose first `n` bytes hold values holds just those once the others leave their live range (R35). -/
theorem Memory.filled_truncate {n : Nat} (hw : m.wf) (hr : (m.readSeq 0 n).isSome) : (m.truncate n).Filled n := by
  refine Memory.filled_of_reads (Memory.truncate_wf n hw) fun a => ?_
  rw [Memory.read_truncate]
  split
  · simpa [*] using Memory.readSeq_isSome.1 hr a ‹_›
  · simp [*]

/-- The addresses of a written sequence. -/
theorem Memory.mem_writeSeq {a : Nat} {bs : List Byte} {c : Host.Cell} (hc : c ∈ m.writeSeq a bs) :
    c ∈ m ∨ c.1 < a + bs.length := by
  induction bs generalizing m a with
  | nil => exact .inl hc
  | cons b bs ih =>
    rw [List.length_cons]
    rcases ih hc with hc | hc
    · rcases Memory.mem_write hc with rfl | hc
      · exact .inr (by show a < _; omega)
      · exact .inl hc
    · exact .inr (by omega)

/-- A whole frame definition, once loaded, is a loaded frame (R34). -/
theorem Memory.frameLoaded_ofBytes {bytes : List Byte} (hl : bytes[2]? = some len)
    (h9 : 9 + len.toNat ≤ bytes.length) : (Memory.ofBytes bytes).frameLoaded = true := by
  have hr : ((Memory.ofBytes bytes).readSeq 0 (9 + len.toNat)).isSome := by
    refine Memory.readSeq_isSome.2 fun i hi => ?_
    rw [Memory.read_ofBytes, List.getElem?_eq_getElem (by omega)]
    rfl
  simp only [Memory.frameLoaded, Memory.read_ofBytes, hl, hr]

theorem Hd.StoresOk.load (hi : h.StoresOk) {bytes : List Byte} (hl : bytes[2]? = some len)
    (h9 : 9 + len.toNat ≤ bytes.length) (hcap : bytes.length ≤ Config.hfsCap) :
    (h.setHfs (Memory.ofBytes bytes)).StoresOk := by
  obtain ⟨-, -, -, hrw, hrlt⟩ := hi
  refine ⟨Memory.ofBytes_wf bytes, fun c hc => ?_, .inr (Memory.frameLoaded_ofBytes hl h9), hrw, hrlt⟩
  have := (Memory.mem_writeSeq hc).resolve_left (List.not_mem_nil)
  omega

/-- Every row of the host keeps what its states say of its counter and stores. -/
theorem HdRow.inv (h : HdRow s t) (hi : s.hd.Inv) : t.hd.Inv := by
  have ⟨hst, hi'⟩ := hi
  cases h with
  | wait => exact hi
  | opStart hs ho hf => exact ⟨hst, hst.frameLoaded hf, 0, rfl, Nat.zero_le _⟩
  | opRetry hs ho =>
    simp only [hs] at hi'
    exact ⟨hst, hi'.1, 0, rfl, Nat.zero_le _⟩
  | header c b hs hc hlt hb =>
    simp only [hs] at hi'
    exact ⟨hst, hi'.1, c + 1, rfl, by rw [Cnt.toNat_succ (by omega)]; omega⟩
  | headerLast c b hs hc heq hb =>
    simp only [hs] at hi'
    exact ⟨hst, hi'.1, rfl⟩
  | headerAck m q hs hq hm =>
    simp only [hs] at hi'
    obtain ⟨hf, -⟩ := hi'
    obtain ⟨len, hlen, -⟩ := Memory.frameLoaded_read hf
    by_cases hmode : m = Config.modeRead
    · simp only [hmode, if_true]
      exact ⟨hst, ⟨hf, hmode ▸ hm⟩, 0, len, rfl, hlen, Nat.zero_le _, rfl⟩
    · simp only [hmode, if_false]
      exact ⟨hst, ⟨hf, m, hm, hmode⟩, 0, len, rfl, hlen, Nat.zero_le _⟩
  | headerNack b q hs hb hq =>
    simp only [hs] at hi'
    exact ⟨hst, hi'.1, rfl⟩
  | payload c len b hs hc hl hlt hb =>
    simp only [hs] at hi'
    have hsucc := Cnt.toNat_succ (c := c) (by have := len.isLt; omega)
    exact ⟨hst, hi'.1, c + 1, len, rfl, hl, by omega⟩
  | payloadDone c len hs hc hl heq =>
    simp only [hs] at hi'
    exact ⟨hst, hi'.1, rfl⟩
  | writeStop len b hs hl hb =>
    simp only [hs] at hi'
    exact ⟨hst, hi'.1, rfl⟩
  | final b q hs hq => exact ⟨hst, rfl⟩
  | receive c len b q hs hc hl hlt hq =>
    simp only [hs] at hi'
    obtain ⟨hr, c', -, hc', -, -, hgot⟩ := hi'
    cases hc.symm.trans hc'
    have hle : len.toNat ≤ Config.hrxCap := by have := len.isLt; unfold Config.hrxCap; omega
    have hsucc := Cnt.toNat_succ (c := c) (by have := len.isLt; omega)
    obtain ⟨got, hgot⟩ := Option.isSome_iff_exists.1 hgot
    have hgot' : ((s.hd.hrx.write c.toNat b).readSeq 0 (c + 1).toNat).isSome := by
      have := Memory.readSeq_write_snoc b hgot
      rw [Nat.zero_add] at this
      rw [hsucc, this]; rfl
    exact ⟨hst.write_hrx (Nat.lt_of_lt_of_le hlt hle) b, hr, c + 1, len, rfl, hl, by omega, hgot'⟩
  | receiveDone c len hs hc hl heq =>
    simp only [hs] at hi'
    obtain ⟨hr, c', -, hc', -, -, hgot⟩ := hi'
    cases hc.symm.trans hc'
    have ⟨_, _, _, hrw, _⟩ := hst
    exact ⟨hst.truncate_hrx _, hr, rfl, len, hl, Memory.filled_truncate hrw (heq ▸ hgot)⟩
  | readStop len b hs hl hb =>
    simp only [hs] at hi'
    obtain ⟨hr, -, hfill⟩ := hi'
    exact ⟨hst, hr, rfl, hfill⟩

end

/-! ### Live ranges: the whole machine -/

section
variable {s t : State} {e : EnvMove}

/-- A row of the peripheral leaves the host and the operator's triggers alone (R20). -/
theorem PeRow.host_eq (h : PeRow s t) : t.hd = s.hd ∧ t.opStart = s.opStart ∧ t.opRetry = s.opRetry := by
  cases h <;> exact ⟨rfl, rfl, rfl⟩

/-- A row of the host leaves the peripheral and its answers alone (R20). -/
theorem HdRow.peripheral_eq (h : HdRow s t) :
    t.pe = s.pe ∧ t.allocQ = s.allocQ ∧ t.adcQ = s.adcQ ∧ t.devwQ = s.devwQ := by
  cases h <;> exact ⟨rfl, rfl, rfl, rfl⟩

/-- A trigger still waiting after a row of the host waited before it, and the driver has not moved (R38, R212; log 10). -/
theorem HdRow.triggers (h : HdRow s t) (hs : s.opStart = true → s.hd.state = .idle)
    (hr : s.opRetry = true → s.hd.state = .retryPrompt) :
    (t.opStart = true → t.hd.state = .idle) ∧ (t.opRetry = true → t.hd.state = .retryPrompt) := by
  cases h with
  | final b q hd hq => rcases hd with hd | hd <;> simp_all
  | _ => simp_all

theorem PeRow.state_inv (h : PeRow s t) (hi : s.Inv) : t.Inv := by
  obtain ⟨hpe, hhd, htrig⟩ := hi
  obtain ⟨h1, h2, h3⟩ := h.host_eq
  exact ⟨h.inv hpe, by rwa [h1], by rwa [h1, h2, h3]⟩

theorem HdRow.state_inv (h : HdRow s t) (hi : s.Inv) : t.Inv := by
  obtain ⟨hpe, hhd, hs, hr⟩ := hi
  exact ⟨h.peripheral_eq.1.symm ▸ hpe, h.inv hhd, h.triggers hs hr⟩

/-- A queue of the channel is no part of the invariant. -/
theorem State.inv_setQueue (d : Dir) (q : List Byte) (hi : s.Inv) : (s.setQueue d q).Inv := by
  cases d <;> exact hi

/-- Every move of the environment keeps the invariant. -/
theorem EnvRow.state_inv (h : EnvRow s e t) (hi : s.Inv) : t.Inv := by
  have ⟨hpe, ⟨hst, hcnt⟩, hs, hr⟩ := hi
  cases h with
  | resetPeHeld ha => exact ⟨Pe.Inv.of_reset (p := Pe.reset) ⟨rfl, rfl⟩ _ _, hi.2⟩
  | resetPeFree ha => exact ⟨Pe.Inv.of_reset (p := Pe.reset) ⟨rfl, rfl⟩ _ _, hi.2⟩
  | resetHd =>
    obtain ⟨hw, hlt, hf, -, -⟩ := hst
    exact ⟨hpe, ⟨⟨hw, hlt, hf, List.Pairwise.nil, nofun⟩, rfl⟩, nofun, nofun⟩
  | xportPeHalted => exact hi
  | xportPeHeld => exact ⟨⟨rfl, rfl, rfl⟩, hi.2⟩
  | xportPeFree _ ha => exact ⟨⟨rfl, hpe.noBuffer ha⟩, hi.2⟩
  | xportHdFatal => exact hi
  | xportHd => exact ⟨hpe, ⟨hst, rfl⟩, nofun, nofun⟩
  | opStart hidle => exact ⟨hpe, ⟨hst, hcnt⟩, fun _ => hidle, hr⟩
  | opRetry hretry => exact ⟨hpe, ⟨hst, hcnt⟩, hs, fun _ => hretry⟩
  | opIgnored => exact hi
  | loadStore bytes len hidle hl h1 h2 =>
    simp only [hidle] at hcnt
    refine ⟨hpe, ⟨hst.load hl h1 h2, ?_⟩, hs, hr⟩
    simpa only [hidle] using hcnt
  | allocAnswer => exact hi
  | adcSample => exact hi
  | devwReturn => exact hi
  | chDelete d => exact State.inv_setQueue d _ hi
  | chAlter d => exact State.inv_setQueue d _ hi
  | chInsert d => exact State.inv_setQueue d _ hi

/-- The choice of a move changes only the schedule, which is no part of the invariant. -/
theorem State.afterChoice_inv (hi : s.Inv) : s.afterChoice.Inv := by
  simpa [State.Inv] using hi

end

/-- Settles O37: each engine's rows and each move of the environment keep the invariant. -/
theorem stepKeepsLiveRanges : Obligations.StepKeepsLiveRanges := by
  intro s t hi h
  have hi' := State.afterChoice_inv hi
  rcases step_cases s with ⟨e, ms, -, hstep⟩ | ⟨a, hstep, -⟩ <;> rw [hstep] at h
  · exact (envRow_of_envStep h).state_inv hi'
  · cases a with
    | pe => exact (peRow_of_agentStep h).state_inv hi'
    | hd => exact (hdRow_of_agentStep h).state_inv hi'

/-! ### The buffer is released as often as it is allocated (R24, R177) -/

section
variable {s t : State} {e : EnvMove} {tr : List (Agent × Event)} {a : Agent}

@[simp] theorem allocated_nil : allocated [] = 0 := rfl
@[simp] theorem released_nil : released [] = 0 := rfl

@[simp] theorem allocated_alloc_true (n : Byte) : allocated ((a, .alloc n true) :: tr) = allocated tr + 1 :=
  List.countP_cons_of_pos rfl
@[simp] theorem released_release : released ((a, .release) :: tr) = released tr + 1 :=
  List.countP_cons_of_pos rfl

@[simp] theorem allocated_of_not_alloc {e : Event} (h : ∀ n, e ≠ .alloc n true) :
    allocated ((a, e) :: tr) = allocated tr := by
  refine List.countP_cons_of_neg ?_
  split
  · rename_i heq
    cases heq
    exact absurd rfl (h _)
  · simp

@[simp] theorem released_of_not_release {e : Event} (h : e ≠ .release) : released ((a, e) :: tr) = released tr := by
  refine List.countP_cons_of_neg ?_
  split
  · rename_i heq
    cases heq
    exact absurd rfl h
  · simp

/-- A row of the peripheral allocates only a buffer it does not hold and releases only one it holds. -/
theorem PeRow.bufferAccounted (h : PeRow s t) (hi : s.pe.Inv) (hb : s.BufferAccounted) : t.BufferAccounted := by
  unfold State.BufferAccounted at hb ⊢
  cases h with
  | allocated len m q hs hl hm =>
    simp only [Pe.Inv, hs] at hi
    obtain ⟨-, -, ha, -⟩ := hi
    simp [hb, ha]
  | nackRelease hs ha => simp [hb, ha, Pe.reset]
  | nackOnly hs ha => simp [hb, ha]
  | dispatch id len n bytes hs hid hl hn hbytes =>
    simp only [Pe.Inv, hs] at hi
    obtain ⟨-, -, ha, -⟩ := hi
    simp [hb, ha, Pe.reset]
  | streamDone c len hs hc hl heq =>
    simp only [Pe.Inv, hs] at hi
    obtain ⟨-, ⟨ha, -⟩, -⟩ := hi
    simp [hb, ha]
  | _ => simpa using hb

/-- A row of the host allocates and releases nothing. -/
theorem HdRow.bufferAccounted (h : HdRow s t) (hb : s.BufferAccounted) : t.BufferAccounted := by
  unfold State.BufferAccounted at hb ⊢
  cases h <;> simpa using hb

/-- Reset and a Transport failure release the buffer just when it is held (R281, R248); no other move of the environment touches it. -/
theorem EnvRow.bufferAccounted (h : EnvRow s e t) (hb : s.BufferAccounted) : t.BufferAccounted := by
  unfold State.BufferAccounted at hb ⊢
  cases h with
  | resetPeHeld ha => simp [hb, ha, Pe.reset]
  | resetPeFree ha => simp [hb, ha, Pe.reset]
  | xportPeHeld hs ha => simp [hb, ha]
  | xportPeFree hs ha => simp [hb, ha]
  | chDelete d => cases d <;> exact hb
  | chAlter d => cases d <;> exact hb
  | chInsert d => cases d <;> exact hb
  | _ => simpa using hb

end

/-- Settles O45: an allocation is granted only where the invariant says no buffer is held, a release made only where one is. -/
theorem bufferAccountingKept : Obligations.BufferAccountingKept := by
  intro s t hi hb h
  have hpe : s.afterChoice.pe.Inv := (State.afterChoice_inv hi).1
  have hb' : s.afterChoice.BufferAccounted := by simpa [State.BufferAccounted] using hb
  rcases step_cases s with ⟨e, ms, -, hstep⟩ | ⟨a, hstep, -⟩ <;> rw [hstep] at h
  · exact (envRow_of_envStep h).bufferAccounted hb'
  · cases a with
    | pe => exact (peRow_of_agentStep h).bufferAccounted hpe hb'
    | hd => exact (hdRow_of_agentStep h).bufferAccounted hb'

/-! ### What the header instructions leave unchanged (R21, R24, R29, R151) -/

/-- The frame of a header instruction with length operand `len`, from `s` to `t`: what a row of R151 may change, and where. -/
structure HeaderFrame (len : Byte) (s t : State) : Prop where
  hd : t.hd = s.hd
  params : t.params = s.params
  script : t.script = s.script
  turn : t.turn = s.turn
  opStart : t.opStart = s.opStart
  opRetry : t.opRetry = s.opRetry
  h2p : t.h2p = s.h2p ∨ s.pe.state = .wPayload ∧ ∃ b, s.h2p = b :: t.h2p
  p2h : t.p2h = s.p2h ∨ ∃ b, t.p2h = s.p2h ++ [b]
  alloc : t.pe.alloc = s.pe.alloc ∨ s.pe.state = .allocateBuffer ∨ (.pe, .release) ∈ t.trace.drop s.trace.length
  evt : t.pe.evt = s.pe.evt ∨
    s.pe.state ∈ [PeState.validateBoard, .validateMode, .allocateBuffer, .wDispatch, .rFinalAck]
  allocQ : t.allocQ = s.allocQ ∨ s.pe.state = .allocateBuffer
  adcQ : t.adcQ = s.adcQ ∨ s.pe.state = .rFill
  devwQ : t.devwQ = s.devwQ ∨ s.pe.state = .wDispatch
  header : t.pe.state ≠ .waitStart →
    t.pe.id = s.pe.id ∧ t.pe.len = s.pe.len ∧ t.pe.mode = s.pe.mode ∧
    t.pe.rsv0 = s.pe.rsv0 ∧ t.pe.rsv1 = s.pe.rsv1 ∧ t.pe.rsv2 = s.pe.rsv2 ∧ t.pe.rsv3 = s.pe.rsv3
  buf : ∀ a, (.pe, .release) ∉ t.trace.drop s.trace.length →
    ¬(s.pe.state = .wPayload ∧ s.pe.cnt.map BitVec.toNat = some a) →
    ¬(s.pe.state = .rFill ∧ a < len.toNat) → t.pe.buf.read a = s.pe.buf.read a

section
variable {s t : State} {id len mode : Byte} {d : DevId}

/-- A waiting engine changes nothing. -/
theorem HeaderFrame.refl (len : Byte) (s : State) : HeaderFrame len s s := by
  constructor <;> simp

theorem rowValidateBoard_frame (hs : s.pe.state = .validateBoard) (h : rowValidateBoard id s = .next t) :
    HeaderFrame len s t := by
  unfold rowValidateBoard at h
  split at h <;> cases h <;> constructor <;> simp [hs]

theorem rowValidateMode_frame (hs : s.pe.state = .validateMode) (h : rowValidateMode mode s = .next t) :
    HeaderFrame len s t := by
  unfold rowValidateMode at h
  split at h <;> cases h <;> constructor <;> simp [hs]

theorem rowAllocate_frame (hs : s.pe.state = .allocateBuffer) (h : rowAllocate len mode s = .next t) :
    HeaderFrame len s t := by
  unfold rowAllocate at h
  split at h
  · cases h; exact .refl len s
  · rename_i ha
    obtain ⟨q, rfl⟩ := State.allocAnswer_eq_some ha
    cases h; constructor <;> simp [hs]
  · rename_i ha
    obtain ⟨q, rfl⟩ := State.allocAnswer_eq_some ha
    cases h; constructor <;> simp [hs]

theorem rowSendNack_frame (hs : s.pe.state = .sendNack) (h : rowSendNack s = .next t) : HeaderFrame len s t := by
  rcases peSend_eq_next.1 h with ⟨-, h⟩ | ⟨-, rfl⟩
  · cases h
    cases ha : s.pe.alloc with
    | true =>
      rw [State.releaseIfHeld_of_held (by simpa using ha)]
      constructor <;> simp [hs]
    | false =>
      rw [State.releaseIfHeld_of_not (by simpa using ha)]
      constructor <;> simp [hs]
  · exact .refl len s

theorem rowWHdrAck_frame (h : rowWHdrAck s = .next t) : HeaderFrame len s t := by
  rcases peSend_eq_next.1 h with ⟨-, h⟩ | ⟨-, rfl⟩
  · cases h; constructor <;> simp
  · exact .refl len s

theorem rowWPayload_frame (hs : s.pe.state = .wPayload) (h : rowWPayload len s = .next t) : HeaderFrame len s t := by
  obtain ⟨c, hc, h⟩ := need_eq_next.1 h
  split at h
  · rcases peRecv_eq_next.1 h with ⟨b, q, hq, h⟩ | ⟨-, rfl⟩
    · cases h
      have hbuf : ∀ a, ¬c.toNat = a → (s.pe.buf.write c.toNat b).read a = s.pe.buf.read a :=
        fun a ha => Memory.read_write_other _ b (Ne.symm ha)
      constructor <;> simp [hs, hc, hq]
      exact hbuf
    · exact .refl len s
  · split at h <;> cases h
    constructor <;> simp

theorem rowWFinalAck_frame (h : rowWFinalAck s = .next t) : HeaderFrame len s t := by
  rcases peSend_eq_next.1 h with ⟨-, h⟩ | ⟨-, rfl⟩
  · cases h; constructor <;> simp
  · exact .refl len s

theorem rowWDispatch_frame (hs : s.pe.state = .wDispatch) (h : rowWDispatch d len s = .next t) : HeaderFrame len s t := by
  unfold rowWDispatch at h
  split at h
  · cases h; exact .refl len s
  · obtain ⟨bytes, -, h⟩ := need_eq_next.1 h
    cases h; constructor <;> simp [hs]

theorem rowRHdrAck_frame (h : rowRHdrAck s = .next t) : HeaderFrame len s t := by
  rcases peSend_eq_next.1 h with ⟨-, h⟩ | ⟨-, rfl⟩
  · cases h; constructor <;> simp
  · exact .refl len s

theorem rowRFill_frame (hs : s.pe.state = .rFill) (h : rowRFill d len s = .next t) : HeaderFrame len s t := by
  unfold rowRFill at h
  split at h
  · cases h
    have hbuf : ∀ a, len.toNat ≤ a →
        (s.pe.buf.writeSeq 0 (s.adcQ.take len.toNat)).read a = s.pe.buf.read a :=
      fun a ha => Memory.read_writeSeq_other _ 0 _ (.inr (by rw [List.length_take]; omega))
    constructor <;> simp [hs]
    exact hbuf
  · cases h; exact .refl len s

theorem rowRStream_frame (h : rowRStream len s = .next t) : HeaderFrame len s t := by
  obtain ⟨c, -, h⟩ := need_eq_next.1 h
  split at h
  · obtain ⟨b, -, h⟩ := need_eq_next.1 h
    rcases peSend_eq_next.1 h with ⟨-, h⟩ | ⟨-, rfl⟩
    · cases h; constructor <;> simp
    · exact .refl len s
  · split at h <;> cases h
    constructor <;> simp

theorem rowRFinalAck_frame (hs : s.pe.state = .rFinalAck) (h : rowRFinalAck s = .next t) : HeaderFrame len s t := by
  rcases peSend_eq_next.1 h with ⟨-, h⟩ | ⟨-, rfl⟩
  · cases h; constructor <;> simp [hs]
  · exact .refl len s

/-- Every row a header executes keeps to the frame. -/
theorem peHeaderRow_frame (h : peHeaderRow id len mode s = .next t) : HeaderFrame len s t := by
  unfold peHeaderRow at h
  cases hs : s.pe.state <;> simp only [hs] at h
  case validateBoard => exact rowValidateBoard_frame hs h
  case validateMode => exact rowValidateMode_frame hs h
  case allocateBuffer => exact rowAllocate_frame hs h
  case sendNack => exact rowSendNack_frame hs h
  case wHdrAck => exact rowWHdrAck_frame h
  case wPayload => exact rowWPayload_frame hs h
  case wFinalAck => exact rowWFinalAck_frame h
  case wDispatch => exact rowWDispatch_frame hs h
  case rHdrAck => exact rowRHdrAck_frame h
  case rFill => exact rowRFill_frame hs h
  case rStream => exact rowRStream_frame h
  case rFinalAck => exact rowRFinalAck_frame hs h
  all_goals cases h

/-- Every header instruction runs the peripheral's rows with its own length operand. -/
theorem exec_of_peHeader_headerLen {i : Instr} (h : i.context = .peHeader) :
    ∃ id len mode, headerLen i = some len ∧ ∀ s, exec i s = peHeaderRow id len mode s := by
  cases i
  case readAdc | writeLed | writeLcd1 | writeLcd2 | writeLcd3 | hdrBadMode | hdrBadBoard =>
    exact ⟨_, _, _, rfl, fun _ => rfl⟩
  all_goals cases h

end

/-- Settles O26, row by row of the table R151. -/
theorem headerInstructionFrame : Obligations.HeaderInstructionFrame := by
  intro i s t hi h
  obtain ⟨id, len, mode, hlen, hexec⟩ := exec_of_peHeader_headerLen hi
  rw [hexec] at h
  have hf := peHeaderRow_frame h
  exact ⟨hf.hd, hf.params, hf.script, hf.turn, hf.opStart, hf.opRetry, hf.h2p, hf.p2h, hf.alloc, hf.evt, hf.allocQ,
    hf.adcQ, hf.devwQ, hf.header, fun a hr hw hfill => hf.buf a hr hw fun ⟨hs, ha⟩ => hfill ⟨hs, len, hlen, ha⟩⟩

/-! ### What the host's instructions leave unchanged (R32 to R35, R201) -/

/-- The frame every instruction of the host keeps to, from `s` to `t`. -/
structure HostFrame (s t : State) : Prop where
  pe : t.pe = s.pe
  params : t.params = s.params
  script : t.script = s.script
  turn : t.turn = s.turn
  allocQ : t.allocQ = s.allocQ
  adcQ : t.adcQ = s.adcQ
  devwQ : t.devwQ = s.devwQ
  opStart : t.opStart = s.opStart ∨ s.hd.state = .idle
  opRetry : t.opRetry = s.opRetry ∨ s.hd.state = .retryPrompt
  hfs : t.hd.hfs = s.hd.hfs
  h2p : t.h2p = s.h2p ∨ ∃ b, t.h2p = s.h2p ++ [b]
  p2h : t.p2h = s.p2h ∨ ∃ b, s.p2h = b :: t.p2h

/-- A stored frame of payload length `len` moreover leaves the acknowledgment and the report alone, and of `HRX` all but the
byte received, or those that leave their live range with the last one (log 6). -/
structure StoredFrameFrame (len : Byte) (s t : State) : Prop extends HostFrame s t where
  lastAck : t.hd.lastAck = s.hd.lastAck
  rpt : t.hd.rpt = s.hd.rpt
  hrx : ∀ a, ¬(s.hd.state = .rRecvPayload ∧ s.hd.cnt.map BitVec.toNat = some a) →
    ¬(s.hd.state = .rRecvPayload ∧ t.hd.state = .rSendStop ∧ len.toNat ≤ a) →
    t.hd.hrx.read a = s.hd.hrx.read a

/-- An acknowledgment moreover sends nothing and leaves the whole of `HRX` alone. -/
structure AckFrame (s t : State) : Prop extends HostFrame s t where
  sent : t.h2p = s.h2p
  hrx : t.hd.hrx = s.hd.hrx

section
variable {s t : State} {len : Byte} {b : Byte}

theorem StoredFrameFrame.refl (len : Byte) (s : State) : StoredFrameFrame len s s :=
  ⟨by constructor <;> simp, rfl, rfl, fun _ _ _ => rfl⟩

theorem rowIdle_frame (hs : s.hd.state = .idle) (h : rowIdle s = .next t) : StoredFrameFrame len s t := by
  unfold rowIdle at h
  split at h <;> cases h
  · exact ⟨by constructor <;> simp [hs], by simp, by simp, by simp⟩
  · exact .refl len s

theorem rowRetryPrompt_frame (hs : s.hd.state = .retryPrompt) (h : rowRetryPrompt s = .next t) :
    StoredFrameFrame len s t := by
  unfold rowRetryPrompt at h
  split at h <;> cases h
  · exact ⟨by constructor <;> simp [hs], by simp, by simp, by simp⟩
  · exact .refl len s

/-- A row that sends a byte and then only moves the driver keeps to the frame. -/
theorem hdSend_frame {k : State → Out} (h : hdSend b k s = .next t)
    (hk : ∀ u, k u = .next t → ∃ st c, t = u.setHd ((u.hd.setCnt c).goto st)) : StoredFrameFrame len s t := by
  rcases hdSend_eq_next.1 h with ⟨-, h⟩ | ⟨-, rfl⟩
  · obtain ⟨st, c, rfl⟩ := hk _ h
    exact ⟨by constructor <;> simp, by simp, by simp, by simp⟩
  · exact .refl len s

theorem rowSendHeader_frame (h : rowSendHeader s = .next t) : StoredFrameFrame len s t := by
  obtain ⟨c, -, h⟩ := need_eq_next.1 h
  split at h
  · obtain ⟨b, -, h⟩ := need_eq_next.1 h
    refine hdSend_frame h fun u hu => ?_
    split at hu <;> cases hu <;> exact ⟨_, _, rfl⟩
  · cases h

theorem rowWSendPayload_frame (h : rowWSendPayload len s = .next t) : StoredFrameFrame len s t := by
  obtain ⟨c, -, h⟩ := need_eq_next.1 h
  split at h
  · obtain ⟨b, -, h⟩ := need_eq_next.1 h
    exact hdSend_frame h fun u hu => by cases hu; exact ⟨_, _, rfl⟩
  · split at h <;> cases h
    exact ⟨by constructor <;> simp, by simp, by simp, by simp⟩

theorem rowWSendStop_frame (h : rowWSendStop len s = .next t) : StoredFrameFrame len s t := by
  obtain ⟨b, -, h⟩ := need_eq_next.1 h
  exact hdSend_frame h fun u hu => by cases hu; exact ⟨_, _, rfl⟩

theorem rowRSendStop_frame (h : rowRSendStop len s = .next t) : StoredFrameFrame len s t := by
  obtain ⟨b, -, h⟩ := need_eq_next.1 h
  exact hdSend_frame h fun u hu => by cases hu; exact ⟨_, _, rfl⟩

theorem rowRRecvPayload_frame (hs : s.hd.state = .rRecvPayload) (h : rowRRecvPayload len s = .next t) :
    StoredFrameFrame len s t := by
  obtain ⟨c, hc, h⟩ := need_eq_next.1 h
  split at h
  · rcases hdRecv_eq_next.1 h with ⟨b, q, hq, h⟩ | ⟨-, rfl⟩
    · cases h
      refine ⟨by constructor <;> simp [hq], by simp, by simp, fun a hw _ => ?_⟩
      exact Memory.read_write_other _ b fun ha => hw ⟨hs, by simp [hc, ha]⟩
    · exact .refl len s
  · split at h <;> cases h
    refine ⟨by constructor <;> simp, by simp, by simp, fun a _ ht => ?_⟩
    have hlt : a < len.toNat := Nat.lt_of_not_le fun hle => ht ⟨hs, rfl, hle⟩
    exact (Memory.read_truncate _ _ _).trans (if_pos hlt)

/-- Every row a stored frame executes keeps to the frame. -/
theorem hdStoreRow_frame (h : hdStoreRow len s = .next t) : StoredFrameFrame len s t := by
  unfold hdStoreRow at h
  cases hs : s.hd.state <;> simp only [hs] at h
  case idle => exact rowIdle_frame hs h
  case sendHeader => exact rowSendHeader_frame h
  case retryPrompt => exact rowRetryPrompt_frame hs h
  case wSendPayload => exact rowWSendPayload_frame h
  case wSendStop => exact rowWSendStop_frame h
  case rRecvPayload => exact rowRRecvPayload_frame hs h
  case rSendStop => exact rowRSendStop_frame h
  all_goals cases h

/-- A row that takes an acknowledgment and then only moves and reports keeps to the frame. -/
theorem hdTakeAck_frame {k : State → Out} (h : hdTakeAck b k s = .next t)
    (hk : ∀ u, k u = .next t → ∃ st c, t = u.setHd ((u.hd.setCnt c).goto st) ∨
      ∃ r, t = (u.hdReport r).setHd (((u.hdReport r).hd.setCnt c).goto st)) : AckFrame s t := by
  rcases hdTakeAck_eq_next.1 h with ⟨b', q, hq, h⟩ | ⟨-, rfl⟩
  · obtain ⟨st, c, rfl | ⟨r, rfl⟩⟩ := hk _ h
    · exact ⟨by constructor <;> simp [hq], by simp, by simp⟩
    · exact ⟨by constructor <;> simp [hq], by simp, by simp⟩
  · exact ⟨by constructor <;> simp, rfl, rfl⟩

/-- Every row of an acknowledgment byte keeps to the frame. -/
theorem hdAckRow_frame (h : hdAckRow b s = .next t) : AckFrame s t := by
  unfold hdAckRow at h
  split at h
  · split at h
    · obtain ⟨mode, -, h⟩ := need_eq_next.1 h
      exact hdTakeAck_frame h fun u hu => by cases hu; exact ⟨_, _, .inl rfl⟩
    · exact hdTakeAck_frame h fun u hu => by cases hu; exact ⟨_, _, .inr ⟨_, rfl⟩⟩
  · exact hdTakeAck_frame h fun u hu => by cases hu; exact ⟨_, _, .inr ⟨_, rfl⟩⟩
  · exact hdTakeAck_frame h fun u hu => by cases hu; exact ⟨_, _, .inr ⟨_, rfl⟩⟩
  · cases h

theorem ackByte_of_hdAck {i : Instr} (h : i.context = .hdAck) : ∃ b, ackByte i = some b := by
  cases i
  case ack | nack | nackOther => exact ⟨_, rfl⟩
  all_goals cases h

theorem hostFrame_of_hdFrameStore {i : Instr} (h : i.context = .hdFrameStore) : ∃ len, hostFrame i = some len := by
  cases i
  case hostRead | hostWrite => exact ⟨_, rfl⟩
  all_goals cases h

end

/-- Settles O28, row by row of the table R201. -/
theorem hostInstructionFrame : Obligations.HostInstructionFrame := by
  intro i s t hi h
  rcases hi with hi | hi
  · obtain ⟨b, hb⟩ := ackByte_of_hdAck hi
    rw [exec_of_ackByte hb] at h
    have hf := hdAckRow_frame h
    exact ⟨hf.pe, hf.params, hf.script, hf.turn, hf.allocQ, hf.adcQ, hf.devwQ, hf.opStart, hf.opRetry,
      fun a => by rw [hf.hfs], by simp [hi], fun _ => ⟨hf.sent, hf.hrx⟩, hf.h2p, hf.p2h, fun a _ _ => by rw [hf.hrx]⟩
  · obtain ⟨len, hlen⟩ := hostFrame_of_hdFrameStore hi
    rw [exec_of_hostFrame hlen] at h
    have hf := hdStoreRow_frame h
    exact ⟨hf.pe, hf.params, hf.script, hf.turn, hf.allocQ, hf.adcQ, hf.devwQ, hf.opStart, hf.opRetry,
      fun a => by rw [hf.hfs], fun _ => ⟨hf.lastAck, hf.rpt⟩, by simp [hi], hf.h2p, hf.p2h,
      fun a hw ht => hf.hrx a hw fun ⟨hs, hst, ha⟩ => ht ⟨hs, hst, len, hlen, ha⟩⟩

/-! ### The ports tell every transfer (R28, R38) -/

section
variable {s t : State} {b : Byte}

theorem PeRow.peRxReady_of_taken (h : PeRow s t) (hne : t.h2p ≠ s.h2p) : s.peRxReady = true := by
  cases h with
  | stopBad b q hs hb hq => rcases hs with hs | hs <;> simp [State.peRxReady, hs]
  | _ => simp_all [State.peRxReady]

/-- A row of the peripheral that sends a byte sends the one offered on `tx_data`. -/
theorem PeRow.peTx_of_sent (h : PeRow s t) (hb : t.p2h = s.p2h ++ [b]) : s.peTx = some b := by
  cases h with
  | stream c len b' hs hc hl hlt hbuf =>
    have hb' : b' = b := by simpa using hb
    subst hb'
    simp only [State.peTx, hs, hc, hl, if_pos ((Cnt.lt_ofByte c len).2 hlt), hbuf]
  | _ => simp_all [State.peTx]

theorem HdRow.hdRxReady_of_taken (h : HdRow s t) (hne : t.p2h ≠ s.p2h) : s.hdRxReady = true := by
  cases h with
  | final b q hs hq => rcases hs with hs | hs <;> simp [State.hdRxReady, hs]
  | _ => simp_all [State.hdRxReady]

/-- A row of the host that sends a byte sends the stored one at `hfs_addr`. -/
theorem HdRow.hdTx_of_sent (h : HdRow s t) (hb : t.h2p = s.h2p ++ [b]) : s.hdTx = some b := by
  cases h with
  | payload c len b' hs hc hl hlt hread =>
    have haddr : hfsPayloadAddr c = 8 + c.toNat := hfsPayloadAddr_eq (by have := len.isLt; omega)
    simp_all [State.hdTx, State.hfsAddr, Cnt.lt_ofByte]
  | _ => simp_all [State.hdTx, State.hfsAddr, hfsHeaderAddr, hfsStopAddr_eq]

end

/-- Settles O46: each row that moves a byte stands in a state whose port says so. -/
theorem portsTellTransfers : Obligations.PortsTellTransfers := by
  intro s t _
  exact ⟨fun h => ⟨(peRow_of_agentStep h).peRxReady_of_taken, fun _ => (peRow_of_agentStep h).peTx_of_sent⟩,
    fun h => ⟨(hdRow_of_agentStep h).hdRxReady_of_taken, fun _ => (hdRow_of_agentStep h).hdTx_of_sent⟩⟩

/-! ### The engines share nothing but the two queues (R20, R40, R62): writing -/

section
variable {s t : State}

theorem PeRow.queues (h : PeRow s t) :
    (t.h2p = s.h2p ∨ ∃ b, s.h2p = b :: t.h2p) ∧ (t.p2h = s.p2h ∨ ∃ b, t.p2h = s.p2h ++ [b]) := by
  cases h <;> simp [*]

theorem HdRow.queues (h : HdRow s t) :
    (t.p2h = s.p2h ∨ ∃ b, s.p2h = b :: t.p2h) ∧ (t.h2p = s.h2p ∨ ∃ b, t.h2p = s.h2p ++ [b]) := by
  cases h <;> simp [*]

end

/-! ### The engines share nothing but the two queues: reading

What an engine does in a state is what it does in the bare view of that state which keeps only what it may read, grafted back
onto the rest. So two states with the same view have the same row. -/

/-- What a row answers, its next state changed by `g`. -/
def mapNext (g : State → State) : Out → Out
  | .next s => .next (g s)
  | .fault r => .fault r
  | .refused r => .refused r

@[simp] theorem mapNext_next (g : State → State) (s : State) : mapNext g (.next s) = .next (g s) := rfl
@[simp] theorem mapNext_fault (g : State → State) (r : Fault) : mapNext g (.fault r) = .fault r := rfl

/-- A row that ends in a next state ends so before the change as well. -/
theorem mapNext_eq_next {g : State → State} {o : Out} {t : State} (h : mapNext g o = .next t) :
    ∃ u, o = .next u ∧ t = g u := by
  cases o <;> cases h
  exact ⟨_, rfl, rfl⟩

/-- A read that must find a value commutes with `g` when what follows it does. -/
theorem need_mapNext {α : Type} {g : State → State} {o : Option α} {f : Fault} {k k' : α → Out}
    (hk : ∀ a, k' a = mapNext g (k a)) : need o f k' = mapNext g (need o f k) := by
  cases o
  · rfl
  · exact hk _

/-- The peripheral's part of `u`, with what `u` sent and recorded appended to `s`, and everything else of `s`. -/
def State.graftPe (s u : State) : State :=
  { u with
    params := s.params, hd := s.hd, opStart := s.opStart, opRetry := s.opRetry, script := s.script, turn := s.turn,
    p2h := s.p2h ++ u.p2h, trace := s.trace ++ u.trace }

/-- The view of the peripheral: its own state, its incoming queue, its inputs, and a channel that takes a byte just when `s` does. -/
def State.peView (s : State) : State :=
  { State.reset with
    params := { Params.default with
      allocModel := s.params.allocModel, rxDepthHd := some 0, backPressure := !s.hasRoom .p2h }
    pe := s.pe, h2p := s.h2p, allocQ := s.allocQ, adcQ := s.adcQ, devwQ := s.devwQ }

section
variable {s u : State} {id len mode b : Byte} {k : State → Out}

@[simp] theorem State.graftPe_pe : (s.graftPe u).pe = u.pe := rfl
@[simp] theorem State.graftPe_h2p : (s.graftPe u).h2p = u.h2p := rfl
@[simp] theorem State.graftPe_adcQ : (s.graftPe u).adcQ = u.adcQ := rfl
@[simp] theorem State.graftPe_devwQ : (s.graftPe u).devwQ = u.devwQ := rfl

theorem State.graftPe_peView (s : State) : s.graftPe s.peView = s := by
  simp [State.graftPe, State.peView, State.reset]

theorem State.peView_hasRoom (s : State) : s.peView.hasRoom .p2h = s.hasRoom .p2h := by
  simp [State.hasRoom, State.peView, State.rxDepth, State.queue, State.receives, State.hdRxReady, State.reset,
    Hd.resetKeeping]

/-- Recording an event in `u` records it in the graft. -/
@[simp] theorem State.log_graftPe (a : Agent) (e : Event) : (s.graftPe u).log a e = s.graftPe (u.log a e) := by
  simp [State.graftPe, State.log]

theorem State.release_graftPe : (s.graftPe u).release = s.graftPe u.release := by
  simp [State.release, State.graftPe, State.setPe]

theorem State.releaseIfHeld_graftPe : (s.graftPe u).releaseIfHeld = s.graftPe u.releaseIfHeld := by
  unfold State.releaseIfHeld
  rw [State.release_graftPe, State.graftPe_pe]
  split <;> rfl

theorem State.raise_graftPe (c : Cause) (info : Byte) : (s.graftPe u).raise c info = s.graftPe (u.raise c info) := by
  simp [State.raise, State.graftPe, State.setPe, State.peGoto]

/-- The graft agrees with `u` on what else a row of the peripheral reads: the Transport and the kind of allocator. -/
structure State.GraftsPe (s u : State) : Prop where
  room : (s.graftPe u).hasRoom .p2h = u.hasRoom .p2h
  alloc : s.params.allocModel = u.params.allocModel

theorem peSend_graftPe (hg : s.GraftsPe u) (hk : ∀ v, k (s.graftPe v) = mapNext s.graftPe (k v)) :
    peSend b k (s.graftPe u) = mapNext s.graftPe (peSend b k u) := by
  unfold peSend
  rw [hg.room]
  split
  · rw [← hk]
    congr 1
    simp [State.graftPe, State.setP2h, State.log]
  · rfl

theorem peRecv_graftPe {k : Byte → State → Out} (hk : ∀ b v, k b (s.graftPe v) = mapNext s.graftPe (k b v)) :
    peRecv k (s.graftPe u) = mapNext s.graftPe (peRecv k u) := by
  unfold peRecv
  rw [State.graftPe_h2p]
  split
  · rfl
  · rw [← hk, ← State.log_graftPe]; rfl

theorem peTake_graftPe (hk : ∀ v, k (s.graftPe v) = mapNext s.graftPe (k v)) :
    peTake b k (s.graftPe u) = mapNext s.graftPe (peTake b k u) := by
  unfold peTake
  rw [State.graftPe_h2p]
  split
  · rfl
  · rw [← hk, ← State.log_graftPe]; rfl

theorem rowReadHeader_graftPe : rowReadHeader (s.graftPe u) = mapNext s.graftPe (rowReadHeader u) := by
  refine need_mapNext fun c => ?_
  split
  · refine peRecv_graftPe fun b v => ?_
    simp only
    split <;> rfl
  · rfl

theorem rowValidateBoard_graftPe : rowValidateBoard id (s.graftPe u) = mapNext s.graftPe (rowValidateBoard id u) := by
  unfold rowValidateBoard
  rw [State.raise_graftPe]
  split <;> rfl

theorem rowValidateMode_graftPe : rowValidateMode mode (s.graftPe u) = mapNext s.graftPe (rowValidateMode mode u) := by
  unfold rowValidateMode
  rw [State.raise_graftPe]
  split <;> rfl

theorem State.allocAnswer_graftPe (hg : s.GraftsPe u) :
    (s.graftPe u).allocAnswer = u.allocAnswer.map fun a => (a.1, s.graftPe a.2) := by
  have hm : (s.graftPe u).params.allocModel = u.params.allocModel := hg.alloc
  have hq : (s.graftPe u).allocQ = u.allocQ := rfl
  unfold State.allocAnswer
  rw [hm, hq]
  split
  · rfl
  · split <;> rfl

theorem rowAllocate_graftPe (hg : s.GraftsPe u) :
    rowAllocate len mode (s.graftPe u) = mapNext s.graftPe (rowAllocate len mode u) := by
  unfold rowAllocate
  rw [State.allocAnswer_graftPe hg]
  rcases u.allocAnswer with - | ⟨ok, v⟩
  · rfl
  · cases ok
    · simp only [Option.map_some, State.log_graftPe, State.raise_graftPe, mapNext_next]
    · simp only [Option.map_some, State.log_graftPe, mapNext_next]; rfl

theorem rowSendNack_graftPe (hg : s.GraftsPe u) : rowSendNack (s.graftPe u) = mapNext s.graftPe (rowSendNack u) :=
  peSend_graftPe hg fun v => by rw [State.releaseIfHeld_graftPe]; rfl

theorem rowWPayload_graftPe : rowWPayload len (s.graftPe u) = mapNext s.graftPe (rowWPayload len u) := by
  refine need_mapNext fun c => ?_
  split
  · exact peRecv_graftPe fun b v => rfl
  · split <;> rfl

theorem rowWDispatch_graftPe {d : DevId} : rowWDispatch d len (s.graftPe u) = mapNext s.graftPe (rowWDispatch d len u) := by
  unfold rowWDispatch
  rw [State.graftPe_devwQ]
  split
  · rfl
  · refine need_mapNext fun bytes => ?_
    simp only [mapNext_next]
    congr 1
    simp [State.graftPe, State.release, State.log, State.setDevwQ, State.setPe, State.peWaitStart]

theorem rowRFill_graftPe {d : DevId} : rowRFill d len (s.graftPe u) = mapNext s.graftPe (rowRFill d len u) := by
  unfold rowRFill
  rw [State.graftPe_adcQ]
  split
  · simp only [mapNext_next]
    congr 1
    simp [State.graftPe, State.log, State.setAdcQ, State.setPe, State.peCount]
  · rfl

theorem rowRStream_graftPe (hg : s.GraftsPe u) : rowRStream len (s.graftPe u) = mapNext s.graftPe (rowRStream len u) := by
  refine need_mapNext fun c => ?_
  split
  · exact need_mapNext fun b => peSend_graftPe hg fun v => rfl
  · split
    · rw [State.release_graftPe]; rfl
    · rfl

/-- Every row of a header commutes with the graft. -/
theorem peHeaderRow_graftPe (hg : s.GraftsPe u) :
    peHeaderRow id len mode (s.graftPe u) = mapNext s.graftPe (peHeaderRow id len mode u) := by
  unfold peHeaderRow
  rw [State.graftPe_pe]
  cases u.pe.state
  case validateBoard => exact rowValidateBoard_graftPe
  case validateMode => exact rowValidateMode_graftPe
  case allocateBuffer => exact rowAllocate_graftPe hg
  case sendNack => exact rowSendNack_graftPe hg
  case wPayload => exact rowWPayload_graftPe
  case wDispatch => exact rowWDispatch_graftPe
  case rFill => exact rowRFill_graftPe
  case rStream => exact rowRStream_graftPe hg
  case wHdrAck | wFinalAck | rHdrAck | rFinalAck => exact peSend_graftPe hg fun v => rfl
  all_goals rfl

/-- The tokens of the peripheral commute with the graft. -/
theorem exec_decodeWaitStart_graftPe :
    exec (decodeWaitStart b) (s.graftPe u) = mapNext s.graftPe (exec (decodeWaitStart b) u) := by
  unfold decodeWaitStart
  split <;> simp only [exec, execStart, execDiscard, State.graftPe_pe] <;> split
  · exact peTake_graftPe fun v => rfl
  · rfl
  · exact peTake_graftPe fun v => rfl
  · rfl

theorem exec_decodeStop_graftPe : exec (decodeStop b) (s.graftPe u) = mapNext s.graftPe (exec (decodeStop b) u) := by
  unfold decodeStop
  split <;> simp only [exec, execStop, execStopBad, State.graftPe_pe] <;> split
  · exact peTake_graftPe fun v => rfl
  · exact peTake_graftPe fun v => rfl
  · rfl
  · exact peTake_graftPe fun v => by rw [State.raise_graftPe]; rfl
  · exact peTake_graftPe fun v => by rw [State.raise_graftPe]; rfl
  · rfl

/-- What is fetched from a queue commutes with a change that each of its tokens commutes with. -/
theorem runFetched_tokenAt_mapNext {g : State → State} {read : Byte → Instr} {q : List Byte}
    (h : ∀ b, exec (read b) (g u) = mapNext g (exec (read b) u)) :
    runFetched (tokenAt read q) (g u) = mapNext g (runFetched (tokenAt read q) u) := by
  cases q
  · rfl
  · exact h _

theorem runFetched_header_graftPe {p : Pe} (hg : s.GraftsPe u) :
    runFetched p.header (s.graftPe u) = mapNext s.graftPe (runFetched p.header u) := by
  unfold Pe.header
  split
  · simp only [runFetched, exec_decodeHeader]
    exact peHeaderRow_graftPe hg
  · rfl

/-- A move of the peripheral reads nothing outside its view (R20). -/
theorem agentStep_pe_graftPe (hg : s.GraftsPe u) : agentStep .pe (s.graftPe u) = mapNext s.graftPe (agentStep .pe u) := by
  have hg' : s.GraftsPe u.dropPePulses := ⟨hg.room, hg.alloc⟩
  have hpulse : (s.graftPe u).dropPePulses = s.graftPe u.dropPePulses := rfl
  simp only [agentStep, peFetch, hpulse, State.graftPe_pe, State.graftPe_h2p]
  cases u.pe.state
  case waitStart => exact runFetched_tokenAt_mapNext fun b => exec_decodeWaitStart_graftPe
  case readHeader => exact rowReadHeader_graftPe
  case wStop | rStop => exact runFetched_tokenAt_mapNext fun b => exec_decodeStop_graftPe
  case halted => rfl
  all_goals exact runFetched_header_graftPe hg'

theorem agentStep_pe_of_view (s : State) : agentStep .pe s = mapNext s.graftPe (agentStep .pe s.peView) := by
  have hg : s.GraftsPe s.peView := ⟨by rw [State.graftPe_peView, State.peView_hasRoom], rfl⟩
  rw [← agentStep_pe_graftPe hg, State.graftPe_peView]

end

/-- The host's part of `u`, with what `u` sent and recorded appended to `s`, and everything else of `s`. -/
def State.graftHd (s u : State) : State :=
  { u with
    params := s.params, pe := s.pe, allocQ := s.allocQ, adcQ := s.adcQ, devwQ := s.devwQ, script := s.script,
    turn := s.turn, h2p := s.h2p ++ u.h2p, trace := s.trace ++ u.trace }

/-- The view of the host: its own state, its incoming queue, the triggers, and a channel that takes a byte just when `s` does. -/
def State.hdView (s : State) : State :=
  { State.reset with
    params := { Params.default with rxDepthPe := some 0, backPressure := !s.hasRoom .h2p }
    pe := { Pe.reset with state := .halted }
    hd := s.hd, p2h := s.p2h, opStart := s.opStart, opRetry := s.opRetry }

section
variable {s u : State} {len b : Byte} {k : State → Out}

@[simp] theorem State.graftHd_hd : (s.graftHd u).hd = u.hd := rfl
@[simp] theorem State.graftHd_p2h : (s.graftHd u).p2h = u.p2h := rfl
@[simp] theorem State.graftHd_opStart : (s.graftHd u).opStart = u.opStart := rfl
@[simp] theorem State.graftHd_opRetry : (s.graftHd u).opRetry = u.opRetry := rfl

theorem State.graftHd_hdView (s : State) : s.graftHd s.hdView = s := by
  simp [State.graftHd, State.hdView, State.reset]

theorem State.hdView_hasRoom (s : State) : s.hdView.hasRoom .h2p = s.hasRoom .h2p := by
  simp [State.hasRoom, State.hdView, State.rxDepth, State.queue, State.receives, State.peRxReady, State.reset]

@[simp] theorem State.log_graftHd (a : Agent) (e : Event) : (s.graftHd u).log a e = s.graftHd (u.log a e) := by
  simp [State.graftHd, State.log]

theorem State.hdReport_graftHd (r : Report) : (s.graftHd u).hdReport r = s.graftHd (u.hdReport r) := by
  simp [State.hdReport, State.graftHd, State.setHd]

theorem hdSend_graftHd (hroom : (s.graftHd u).hasRoom .h2p = u.hasRoom .h2p)
    (hk : ∀ v, k (s.graftHd v) = mapNext s.graftHd (k v)) :
    hdSend b k (s.graftHd u) = mapNext s.graftHd (hdSend b k u) := by
  unfold hdSend
  rw [hroom]
  split
  · rw [← hk]
    congr 1
    simp [State.graftHd, State.setH2p, State.log]
  · rfl

theorem hdRecv_graftHd {k : Byte → State → Out} (hk : ∀ b v, k b (s.graftHd v) = mapNext s.graftHd (k b v)) :
    hdRecv k (s.graftHd u) = mapNext s.graftHd (hdRecv k u) := by
  unfold hdRecv
  rw [State.graftHd_p2h]
  split
  · rfl
  · rw [← hk, ← State.log_graftHd]; rfl

theorem hdTakeAck_graftHd (hk : ∀ v, k (s.graftHd v) = mapNext s.graftHd (k v)) :
    hdTakeAck b k (s.graftHd u) = mapNext s.graftHd (hdTakeAck b k u) := by
  unfold hdTakeAck
  rw [State.graftHd_p2h]
  split
  · rfl
  · rw [← hk]
    congr 1
    simp [State.graftHd, State.setP2h, State.log, State.setHd]

theorem rowIdle_graftHd : rowIdle (s.graftHd u) = mapNext s.graftHd (rowIdle u) := by
  unfold rowIdle
  rw [State.graftHd_opStart]
  split
  · simp only [mapNext_next]
    congr 1
    simp [State.graftHd, State.setOpStart, State.log, State.hdCount, State.setHd]
  · rfl

theorem rowRetryPrompt_graftHd : rowRetryPrompt (s.graftHd u) = mapNext s.graftHd (rowRetryPrompt u) := by
  unfold rowRetryPrompt
  rw [State.graftHd_opRetry]
  split
  · simp only [mapNext_next]
    congr 1
    simp [State.graftHd, State.setOpRetry, State.log, State.hdCount, State.setHd]
  · rfl

theorem rowSendHeader_graftHd (hroom : (s.graftHd u).hasRoom .h2p = u.hasRoom .h2p) :
    rowSendHeader (s.graftHd u) = mapNext s.graftHd (rowSendHeader u) := by
  refine need_mapNext fun c => ?_
  split
  · refine need_mapNext fun b => hdSend_graftHd hroom fun v => ?_
    split <;> rfl
  · rfl

theorem rowWSendPayload_graftHd (hroom : (s.graftHd u).hasRoom .h2p = u.hasRoom .h2p) :
    rowWSendPayload len (s.graftHd u) = mapNext s.graftHd (rowWSendPayload len u) := by
  refine need_mapNext fun c => ?_
  split
  · exact need_mapNext fun b => hdSend_graftHd hroom fun v => rfl
  · split <;> rfl

theorem rowRRecvPayload_graftHd : rowRRecvPayload len (s.graftHd u) = mapNext s.graftHd (rowRRecvPayload len u) := by
  refine need_mapNext fun c => ?_
  split
  · exact hdRecv_graftHd fun b v => rfl
  · split <;> rfl

/-- Every row of a stored frame commutes with the graft. -/
theorem hdStoreRow_graftHd (hroom : (s.graftHd u).hasRoom .h2p = u.hasRoom .h2p) :
    hdStoreRow len (s.graftHd u) = mapNext s.graftHd (hdStoreRow len u) := by
  unfold hdStoreRow
  rw [State.graftHd_hd]
  cases u.hd.state
  case idle => exact rowIdle_graftHd
  case sendHeader => exact rowSendHeader_graftHd hroom
  case retryPrompt => exact rowRetryPrompt_graftHd
  case wSendPayload => exact rowWSendPayload_graftHd hroom
  case rRecvPayload => exact rowRRecvPayload_graftHd
  case wSendStop | rSendStop => exact need_mapNext fun b => hdSend_graftHd hroom fun v => rfl
  all_goals rfl

/-- Every row of an acknowledgment byte commutes with the graft. -/
theorem hdAckRow_graftHd : hdAckRow b (s.graftHd u) = mapNext s.graftHd (hdAckRow b u) := by
  unfold hdAckRow
  rw [State.graftHd_hd]
  split
  · split
    · exact need_mapNext fun mode => hdTakeAck_graftHd fun v => rfl
    · exact hdTakeAck_graftHd fun v => by rw [State.hdReport_graftHd]; rfl
  · exact hdTakeAck_graftHd fun v => by rw [State.hdReport_graftHd]; rfl
  · exact hdTakeAck_graftHd fun v => by rw [State.hdReport_graftHd]; rfl
  · rfl

theorem runFetched_stored_graftHd {h : Hd} (hroom : (s.graftHd u).hasRoom .h2p = u.hasRoom .h2p) :
    runFetched h.stored (s.graftHd u) = mapNext s.graftHd (runFetched h.stored u) := by
  unfold Hd.stored
  split
  · simp only [runFetched, exec_decodeStore]
    exact hdStoreRow_graftHd hroom
  · rfl

/-- A driver that waits for a trigger runs the stored header once it is given. -/
theorem runFetched_trigger_graftHd {h : Hd} {o : Bool} (hroom : (s.graftHd u).hasRoom .h2p = u.hasRoom .h2p) :
    runFetched (if o then h.stored else .wait) (s.graftHd u) =
      mapNext s.graftHd (runFetched (if o then h.stored else .wait) u) := by
  cases o
  · rfl
  · exact runFetched_stored_graftHd hroom

theorem runFetched_ack_graftHd {q : List Byte} :
    runFetched (tokenAt decodeAck q) (s.graftHd u) = mapNext s.graftHd (runFetched (tokenAt decodeAck q) u) :=
  runFetched_tokenAt_mapNext fun b => by simp only [exec_decodeAck]; exact hdAckRow_graftHd

/-- A move of the host reads nothing outside its view (R20). -/
theorem agentStep_hd_graftHd (hroom : (s.graftHd u).hasRoom .h2p = u.hasRoom .h2p) :
    agentStep .hd (s.graftHd u) = mapNext s.graftHd (agentStep .hd u) := by
  have hroom' : (s.graftHd u.dropHdPulses).hasRoom .h2p = u.dropHdPulses.hasRoom .h2p := hroom
  have hpulse : (s.graftHd u).dropHdPulses = s.graftHd u.dropHdPulses := rfl
  simp only [agentStep, hdFetch, hpulse, State.graftHd_hd, State.graftHd_p2h, State.graftHd_opStart,
    State.graftHd_opRetry]
  cases u.hd.state
  case waitHdrAck | wWaitFinal | rWaitFinal => exact runFetched_ack_graftHd
  case fatal => rfl
  case idle | retryPrompt => exact runFetched_trigger_graftHd hroom'
  all_goals exact runFetched_stored_graftHd hroom'

theorem agentStep_hd_of_view (s : State) : agentStep .hd s = mapNext s.graftHd (agentStep .hd s.hdView) := by
  rw [← agentStep_hd_graftHd (by rw [State.graftHd_hdView, State.hdView_hasRoom]), State.graftHd_hdView]

end

/-- Settles O41: what an engine writes is told by its rows, and it reads no more than its view. -/
theorem nothingSharedButChannel : Obligations.NothingSharedButChannel := by
  refine ⟨fun s t => ⟨fun h => ?_, fun h => ?_⟩, fun s s' t => ⟨?_, ?_⟩⟩
  · have hrow := peRow_of_agentStep h
    obtain ⟨h1, h2, h3⟩ := hrow.host_eq
    exact ⟨h1, h2, h3, hrow.queues⟩
  · have hrow := hdRow_of_agentStep h
    obtain ⟨h1, h2, h3, h4⟩ := hrow.peripheral_eq
    exact ⟨h1, h2, h3, h4, hrow.queues⟩
  · intro hpe halloc hq hallocQ hadcQ hdevwQ hroom h
    have hview : s.peView = s'.peView := by simp only [State.peView, hpe, halloc, hq, hallocQ, hadcQ, hdevwQ, hroom]
    rw [agentStep_pe_of_view] at h
    obtain ⟨u, hu, rfl⟩ := mapNext_eq_next h
    exact ⟨s'.graftPe u, u.p2h, u.trace, by rw [agentStep_pe_of_view, ← hview, hu]; rfl, rfl, rfl, rfl, rfl, rfl, rfl,
      rfl, rfl, rfl⟩
  · intro hhd hq hstart hretry hroom h
    have hview : s.hdView = s'.hdView := by simp only [State.hdView, hhd, hq, hstart, hretry, hroom]
    rw [agentStep_hd_of_view] at h
    obtain ⟨u, hu, rfl⟩ := mapNext_eq_next h
    exact ⟨s'.graftHd u, u.h2p, u.trace, by rw [agentStep_hd_of_view, ← hview, hu]; rfl, rfl, rfl, rfl, rfl, rfl, rfl,
      rfl, rfl⟩

/-! ### The schedule (R20, R302; log 1) -/

/-- Settles O10: a script of the one move that falls to the engine whose turn it is runs as the empty script does. -/
theorem emptyScriptAlternates : Obligations.EmptyScriptAlternates := by
  intro s h
  have hs : s.setTurn s.turn.other = { s with script := [], turn := s.turn.other } := by
    rw [State.setTurn, ← h]
  simp only [step, h, moveStep, State.setScript, hs]

/-! ### The rows of the peripheral that move data (R154, R160 to R169, R174) -/

section
variable {s : State} {b : Byte} {c : Cnt} {len : Byte} {k : State → Out} {more done : Out}

theorem peSend_of_room (h : s.hasRoom .p2h = true) :
    peSend b k s = k ((s.setP2h (s.p2h ++ [b])).log .pe (.tx b)) := if_pos h

theorem peRecv_cons {k : Byte → State → Out} {q : List Byte} (h : s.h2p = b :: q) :
    peRecv k s = k b ((s.setH2p q).log .pe (.rx b)) := by
  rw [peRecv, h]

/-- A row that counts up to the payload length goes on below it. -/
theorem Cnt.countRow_of_lt (h : c.toNat < len.toNat) :
    (if c < Cnt.ofByte len then more else if c = Cnt.ofByte len then done else .fault .counterOutOfRange) = more :=
  if_pos ((Cnt.lt_ofByte c len).2 h)

/-- A row that counts up to the payload length is done when it is reached. -/
theorem Cnt.countRow_of_eq (h : c.toNat = len.toNat) :
    (if c < Cnt.ofByte len then more else if c = Cnt.ofByte len then done else .fault .counterOutOfRange) = done := by
  rw [if_neg (by rw [Cnt.lt_ofByte]; omega), if_pos ((Cnt.eq_ofByte c len).2 h)]

/-- Which register each header byte goes to, one register at a time (R154). -/
theorem Pe.storeHeader_eq {k : Nat} (h1 : 1 ≤ k) (h7 : k ≤ 7) (b : Byte) (p : Pe) :
    p.storeHeader k b = { p with
      id := if k = 1 then some b else p.id
      len := if k = 2 then some b else p.len
      mode := if k = 3 then some b else p.mode
      rsv0 := if k = 4 then some b else p.rsv0
      rsv1 := if k = 5 then some b else p.rsv1
      rsv2 := if k = 6 then some b else p.rsv2
      rsv3 := if k = 7 then some b else p.rsv3 } := by
  interval_cases k <;> rfl

end

/-- Settles O12: the byte taken goes to the register of its offset, and the seventh ends the header. -/
theorem readHeaderStores : Obligations.ReadHeaderStores := by
  intro s c b q hs hc h1 h7 hq
  have hstep : agentStep .pe s = rowReadHeader s.dropPePulses := by simp only [agentStep, peFetch, hs, runFetched]
  have hcnt : s.dropPePulses.pe.cnt = some c := hc
  have hqueue : s.dropPePulses.h2p = b :: q := hq
  rw [hstep, rowReadHeader, hcnt, need_some, if_pos ⟨h1, h7⟩, peRecv_cons hqueue]
  simp only [Pe.storeHeader_eq h1 h7]
  by_cases hlast : c.toNat = 7
  · simp only [hlast, Nat.lt_irrefl, if_false, if_true]
    rfl
  · simp only [hlast, Nat.lt_of_le_of_ne h7 hlast, if_false, if_true]
    rfl

/-- Settles O18: the rows T7, T8a, T8b, T10 and T11 of a header in the Write flow. -/
theorem writeFlowRows : Obligations.WriteFlowRows := by
  intro s i d len hi
  obtain ⟨id, rfl, -, hexec⟩ := exec_of_writeFrame hi
  rw [hexec]
  refine ⟨fun hs hroom => ?_, fun c b q hs hc hlt hq => ?_, fun c hs hc heq => ?_, fun hs hroom => ?_, fun hs hn => ?_,
    fun n bytes hs hn hb => ?_⟩ <;> simp only [peHeaderRow, hs]
  · rw [rowWHdrAck, peSend_of_room hroom]; rfl
  · rw [rowWPayload, hc, need_some, Cnt.countRow_of_lt hlt, peRecv_cons hq, ← hs]; rfl
  · rw [rowWPayload, hc, need_some, Cnt.countRow_of_eq heq]; rfl
  · rw [rowWFinalAck, peSend_of_room hroom]; rfl
  · simp only [rowWDispatch, hn]
  · simp only [rowWDispatch, hn, hb, need_some, State.release, State.log, State.setDevwQ, State.setPe, State.peWaitStart,
      List.append_assoc]
    rfl

/-- Settles O19: the rows T12, T13, T14a, T14b and T16 of a header in the Read flow. -/
theorem readFlowRows : Obligations.ReadFlowRows := by
  intro s d len rsv
  rw [show exec (.readAdc d len rsv) s = peHeaderRow (d.setWidth 8) len 0x01 s from rfl]
  refine ⟨fun hs hroom => ?_, fun hs hshort => ?_, fun samples q hs hlen hq => ?_, fun c b hs hc hlt hb hroom => ?_,
    fun c hs hc heq => ?_, fun hs hroom => ?_⟩ <;> simp only [peHeaderRow, hs]
  · rw [rowRHdrAck, peSend_of_room hroom]; rfl
  · rw [rowRFill, if_neg (by omega)]
  · have henough : len.toNat ≤ s.adcQ.length := by rw [hq, List.length_append]; omega
    have htake : s.adcQ.take len.toNat = samples := by rw [hq, ← hlen, List.take_left]
    have hdrop : s.adcQ.drop len.toNat = q := by rw [hq, ← hlen, List.drop_left]
    rw [rowRFill, if_pos henough, htake, hdrop, (device_identifier d).1]
    rfl
  · rw [rowRStream, hc, need_some, Cnt.countRow_of_lt hlt, hb, need_some, peSend_of_room hroom, ← hs]; rfl
  · rw [rowRStream, hc, need_some, Cnt.countRow_of_eq heq]; rfl
  · rw [rowRFinalAck, peSend_of_room hroom]; rfl

/-! ### The Read driver's rows (R35, R208) -/

section
variable {s : State} {b : Byte} {k : State → Out}

theorem hdSend_of_room (h : s.hasRoom .h2p = true) :
    hdSend b k s = k ((s.setH2p (s.h2p ++ [b])).log .hd (.tx b)) := if_pos h

theorem hdRecv_cons {k : Byte → State → Out} {q : List Byte} (h : s.p2h = b :: q) :
    hdRecv k s = k b ((s.setP2h q).log .hd (.rx b)) := by
  rw [hdRecv, h]

end

/-- Settles O25: the rows H8a, H8b and H9 of a stored frame. -/
theorem hostReadRows : Obligations.HostReadRows := by
  intro s i len hi
  rw [exec_of_hostFrame hi]
  refine ⟨fun c b q hs hc hlt hq => ?_, fun c hs hc heq => ?_, fun b hs hb hroom => ?_⟩ <;> simp only [hdStoreRow, hs]
  · rw [rowRRecvPayload, hc, need_some, Cnt.countRow_of_lt hlt, hdRecv_cons hq, ← hs]; rfl
  · rw [rowRRecvPayload, hc, need_some, Cnt.countRow_of_eq heq]
    exact ⟨_, rfl, rfl, Memory.read_truncate s.hd.hrx len.toNat⟩
  · rw [rowRSendStop, hfsStopAddr_eq, hb, need_some, hdSend_of_room hroom]; rfl

/-! ### Reset, the store load, the channel's faults (R34, R39, R40, R281) -/

/-- Settles O31: the buffer is given back just when it is held, and the rest of the peripheral is as at power-on. -/
theorem resetPeripheral : Obligations.ResetPeripheral := by
  intro s
  refine ⟨s.resetPe, rfl, ?_⟩
  unfold State.resetPe
  cases ha : s.pe.alloc
  · exact ⟨rfl, ⟨rfl, rfl, rfl, rfl, rfl, rfl, rfl⟩, rfl, rfl, rfl, rfl, rfl, (List.append_nil _).symm, rfl⟩
  · exact ⟨rfl, ⟨rfl, rfl, rfl, rfl, rfl, rfl, rfl⟩, rfl, rfl, rfl, rfl, rfl, rfl, rfl⟩

/-- Settles O32: the reset state of the driver with its own frame store, and both triggers lost. -/
theorem resetHost : Obligations.ResetHost :=
  fun _ => rfl

/-- Settles O34: whether the list is a whole frame definition decides, and a loaded store reads back. -/
theorem storeLoad : Obligations.StoreLoad := by
  intro s bytes
  refine ⟨fun hs => if_neg hs, fun hs hno => ?_, fun len hs hl h9 hcap => ?_⟩
  · exact (if_pos hs).trans (if_neg fun hf => hno (isFrameDefinition_iff.1 hf))
  · refine ⟨s.setHd (s.hd.setHfs (Memory.ofBytes bytes)), ?_, Memory.read_ofBytes bytes, rfl⟩
    exact (if_pos hs).trans (if_pos (isFrameDefinition_iff.2 ⟨len, hl, h9, hcap⟩))

/-- Settles O35: the fault is admitted just when the channel is lossy, and then edits the one queue. -/
theorem channelFaults : Obligations.ChannelFaults := by
  intro s d n b
  refine ⟨fun hideal hpe hhd => ?_, fun hlossy => ?_⟩
  · have hl : ¬s.lossy = true := by simp [State.lossy_of_ideal hideal]
    have hm : ¬s.mayLose d = true := State.mayLose_of_unbounded hideal (by cases d <;> assumption)
    exact ⟨if_neg hm, if_neg hl, if_neg hl⟩
  · have hl : s.lossy = true := by simp [State.lossy, hlossy]
    have hm : ∀ d, s.mayLose d = true := fun d => (State.mayLose_iff d).2 (.inl hl)
    exact ⟨if_pos (hm _), if_pos (hm _), if_pos hl, if_pos hl, if_pos hl, if_pos hl⟩

/-! ### The reset state, and the codes of the ports (R24, R27, R29, R39, R213) -/

/-- Settles O36: nothing is live, nothing is in flight and nothing is recorded. -/
theorem resetMeetsInvariants : Obligations.ResetMeetsInvariants := by
  have hpe : State.reset.pe.Inv := Pe.Inv.of_reset (p := Pe.reset) ⟨rfl, rfl⟩ none false
  have hhd : State.reset.hd.Inv := ⟨⟨List.Pairwise.nil, nofun, .inl rfl, List.Pairwise.nil, nofun⟩, rfl⟩
  exact ⟨⟨hpe, hhd, nofun, nofun⟩, ⟨rfl, rfl⟩, rfl, .inl rfl, rfl, rfl, .inl rfl⟩

section
variable {s : State}

theorem State.evtPort_eq {e : Option Status} (h : s.pe.evt = e) : s.evtPort = e.map Status.code := by
  rw [State.evtPort, h]

theorem State.rptPort_eq {r : Option Report} (h : s.hd.rpt = r) : s.rptPort = r.map Report.code := by
  rw [State.rptPort, h]

end

/-- Settles O60: each port shows the code of what is raised. -/
theorem portCodes : Obligations.PortCodes :=
  fun _ => ⟨State.evtPort_eq, State.evtPort_eq, State.evtPort_eq, State.evtPort_eq, State.evtPort_eq, State.evtPort_eq,
    State.evtPort_eq, State.evtPort_eq, State.rptPort_eq, State.rptPort_eq, State.rptPort_eq, State.rptPort_eq,
    State.rptPort_eq⟩

end Sys2Proof.Machine

/-! ## Family `20_memory`: the two engines in step, half-duplex, the payload intact, the depths that suffice -/

namespace Sys2Proof.Machine

/-! ### What the peripheral does at one position of a frame in step (R62, R63) -/

section
variable {s t : State} {b : Byte} {n k i : Nat} {tail sent : List Byte}

/-- The length the peripheral holds is the stored one. -/
theorem State.HeaderMatches.len (h : s.HeaderMatches) : s.pe.len = s.hd.hfs.read 2 := h.2.1

/-- The mode the peripheral holds is the stored one. -/
theorem State.HeaderMatches.mode (h : s.HeaderMatches) : s.pe.mode = s.hd.hfs.read 3 := h.2.2

/-- Only the read capability gives a new sample (R135). -/
theorem PeRow.lastSample_eq (h : PeRow s t) (hs : s.pe.state ≠ .rFill) : lastSample t.trace = lastSample s.trace := by
  cases h with
  | fill _ _ _ _ hfill => exact absurd hfill hs
  | _ => simp [lastSample]

/-- With nothing to take, a scanning peripheral waits. -/
theorem PeRow.at_waitStart (h : PeRow s t) (hs : s.pe.state = .waitStart) (hq : s.h2p = []) : t = s.dropPePulses := by
  cases h with
  | wait => rfl
  | _ => simp_all

/-- With nothing to take, a peripheral at rest stays at rest. -/
theorem PeRow.at_rest (h : PeRow s t) (hs : s.PeAtRest) (hq : s.h2p = []) :
    t.PeAtRest ∧ t.h2p = [] ∧ t.p2h = s.p2h := by
  rcases hs with hs | hs
  · cases h.at_waitStart hs hq
    exact ⟨.inl hs, hq, rfl⟩
  · cases h with
    | wait => exact ⟨.inr hs, hq, rfl⟩
    | dispatch => exact ⟨.inl rfl, hq, rfl⟩
    | _ => simp_all

/-- In `SendNack` the peripheral waits or sends its one `NACK` (R246). -/
theorem PeRow.at_sendNack (h : PeRow s t) (hs : s.pe.state = .sendNack) :
    t = s.dropPePulses ∨ t.h2p = s.h2p ∧ t.p2h = s.p2h ++ [Config.nack] ∧ t.pe.state = .waitStart := by
  cases h with
  | wait => exact .inl rfl
  | nackRelease | nackOnly => exact .inr ⟨rfl, rfl, rfl⟩
  | _ => simp_all

theorem PeRow.at_wFinalAck (h : PeRow s t) (hs : s.pe.state = .wFinalAck) :
    t = s.dropPePulses ∨ t.h2p = s.h2p ∧ t.p2h = s.p2h ++ [Config.ack] ∧ t.pe.state = .wDispatch := by
  cases h with
  | wait => exact .inl rfl
  | writeFinalAck => exact .inr ⟨rfl, rfl, rfl⟩
  | _ => simp_all

theorem PeRow.at_rFinalAck (h : PeRow s t) (hs : s.pe.state = .rFinalAck) :
    t = s.dropPePulses ∨ t.h2p = s.h2p ∧ t.p2h = s.p2h ++ [Config.ack] ∧ t.pe.state = .waitStart := by
  cases h with
  | wait => exact .inl rfl
  | readFinalAck => exact .inr ⟨rfl, rfl, rfl⟩
  | _ => simp_all

/-- The peripheral has taken `b` as its stop byte: it is about to acknowledge the frame from `ack`, or to refuse it (R163, R164, R170). -/
def State.StopTaken (ack : PeState) (b : Byte) (s : State) : Prop :=
  b = Config.stop ∧ s.pe.state = ack ∨ b ≠ Config.stop ∧ s.pe.state = .sendNack

/-- At the stop position of a Write the peripheral waits or takes one byte, which decides; `BUF` is not touched (R163, R164). -/
theorem PeRow.at_wStop (h : PeRow s t) (hs : s.pe.state = .wStop) :
    t = s.dropPePulses ∨ t.p2h = s.p2h ∧ t.pe.buf = s.pe.buf ∧ ∃ b, s.h2p = b :: t.h2p ∧ t.StopTaken .wFinalAck b := by
  cases h with
  | wait => exact .inl rfl
  | writeStop q _ hq => exact .inr ⟨rfl, rfl, _, hq, .inl ⟨rfl, rfl⟩⟩
  | stopBad b q _ hb hq => exact .inr ⟨rfl, rfl, b, hq, .inr ⟨hb, rfl⟩⟩
  | _ => simp_all

theorem PeRow.at_rStop (h : PeRow s t) (hs : s.pe.state = .rStop) :
    t = s.dropPePulses ∨ t.p2h = s.p2h ∧ ∃ b, s.h2p = b :: t.h2p ∧ t.StopTaken .rFinalAck b := by
  cases h with
  | wait => exact .inl rfl
  | readStop q _ hq => exact .inr ⟨rfl, _, hq, .inl ⟨rfl, rfl⟩⟩
  | stopBad b q _ hb hq => exact .inr ⟨rfl, b, hq, .inr ⟨hb, rfl⟩⟩
  | _ => simp_all

/-- A register is the stored byte of its offset once the byte before the counter has been stored (R154). -/
theorem register_matches {o : Option Byte} {m : Memory} (ho : i < k → o = m.read i) (hb : m.read k = some b)
    (hi : i < k + 1) : (if k = i then some b else o) = m.read i := by
  split
  · rename_i hk; rw [← hk, hb]
  · exact ho (by omega)

/-- A header byte taken is the stored byte of its offset; the eighth leaves the whole header undecided (R154). -/
theorem PeRow.headerInFlight (h : PeRow s t) (hstart : s.hd.hfs = [] ∨ s.hd.hfs.read 0 = some Config.start) (hn : n ≤ 8)
    (hi : s.HeaderInFlight n) : t.HeaderInFlight n ∨ n = 8 ∧ t.HeaderUndecided := by
  have ⟨hp, k, hkn, hk8, hq, hpe⟩ := hi
  rcases hpe with ⟨rfl, hrest⟩ | ⟨hs, ⟨c, hc, rfl⟩, hid, hlen, hmode⟩
  · cases h with
    | wait => exact .inl hi
    | start q _ hq' =>
      rw [hq'] at hq
      obtain ⟨h0, -, hq⟩ := Memory.readSeq_tail hq
      exact .inl ⟨hp, 1, h0, by decide, hq, .inr ⟨rfl, ⟨1, rfl, rfl⟩, nofun, nofun, nofun⟩⟩
    | discard b q _ hb hq' =>
      rw [hq'] at hq
      obtain ⟨-, h0, -⟩ := Memory.readSeq_tail hq
      rcases hstart with hnil | hstart
      · simp [hnil, Memory.read] at h0
      · exact absurd (Option.some.inj (h0.symm.trans hstart)) hb
    | dispatch => exact .inl ⟨hp, 0, hkn, hk8, hq, .inl ⟨rfl, .inl rfl⟩⟩
    | _ => rcases hrest with hrest | hrest <;> simp_all
  · cases h with
    | wait => exact .inl hi
    | header c' b q _ hc' h1 h7 hq' =>
      cases hc.symm.trans hc'
      rw [hq'] at hq
      obtain ⟨hlt, hb, hq⟩ := Memory.readSeq_tail hq
      have hsucc := Cnt.toNat_succ (c := c) (by omega)
      refine .inl ⟨hp, c.toNat + 1, by omega, by omega, by rwa [Nat.sub_sub] at hq, .inr ⟨rfl, ⟨c + 1, rfl, hsucc⟩, ?_⟩⟩
      rw [Pe.storeHeader_eq h1 (by omega)]
      exact ⟨register_matches hid hb, register_matches hlen hb, register_matches hmode hb⟩
    | headerLast c' b q _ hc' h7 hq' =>
      cases hc.symm.trans hc'
      rw [hq'] at hq
      obtain ⟨hlt, -, hq⟩ := Memory.readSeq_tail hq
      have hn8 : n = 8 := by omega
      have hnil : q = [] := by simpa [hn8, h7, Memory.readSeq] using hq.symm
      exact .inr ⟨hn8, hnil, hp, ⟨hid (by omega), hlen (by omega), hmode (by omega)⟩, .inl rfl⟩
    | _ => simp_all

/-- A whole header is decided without a byte received: two checks, the allocation, then one byte of answer (R156 to R160, R167). -/
theorem PeRow.headerUndecided (h : PeRow s t) (hi : s.pe.Inv) (hu : s.HeaderUndecided) :
    t.HeaderUndecided ∨ t.h2p = [] ∧
      (t.p2h = [Config.nack] ∧ t.pe.state = .waitStart ∨
        t.p2h = [Config.ack] ∧ t.HeaderMatches ∧ t.pe.state = .wPayload ∧ t.pe.cnt = some 0 ∨
        t.p2h = [Config.ack] ∧ t.ReadSent []) := by
  have ⟨hq, hp, hm, hs⟩ := hu
  cases h with
  | wait => exact .inl hu
  | boardGood => exact .inl ⟨hq, hp, hm, .inr (.inl rfl)⟩
  | modeGood => exact .inl ⟨hq, hp, hm, .inr (.inr (.inl rfl))⟩
  | boardBad _ hst | modeBad _ hst | notAllocated _ _ hst =>
    simp only [Pe.Inv, hst] at hi
    exact .inl ⟨hq, hp, hm, .inr (.inr (.inr (.inl ⟨rfl, by simp_all [Pe.NoBuffer]⟩)))⟩
  | allocated len m =>
    refine .inl ⟨hq, hp, hm, .inr (.inr (.inr (.inr ?_)))⟩
    by_cases hr : m = Config.modeRead
    · exact .inr (if_pos hr)
    · exact .inl (if_neg hr)
  | nackOnly => exact .inr ⟨hq, .inl ⟨by simp [hp], rfl⟩⟩
  | writeAck => exact .inr ⟨hq, .inr (.inl ⟨by simp [hp], hm, rfl, rfl⟩)⟩
  | readAck => exact .inr ⟨hq, .inr (.inr ⟨by simp [hp], hm, .inl ⟨rfl, rfl⟩⟩)⟩
  | _ => simp_all

/-- A sequence copied from another store grows with the byte that follows it there. -/
theorem Memory.readSeq_write_copy {m m' : Memory} {a : Nat} (h : m.readSeq 0 k = m'.readSeq a k)
    (hsome : (m.readSeq 0 k).isSome) (hb : m'.read (a + k) = some b) :
    (m.write k b).readSeq 0 (k + 1) = m'.readSeq a (k + 1) := by
  obtain ⟨bs, hbs⟩ := Option.isSome_iff_exists.1 hsome
  have hw := Memory.readSeq_write_snoc b hbs
  rw [Nat.zero_add] at hw
  rw [hw, Memory.readSeq_snoc (h.symm.trans hbs) hb]

theorem Memory.readSeq_length {m : Memory} {a : Nat} {bs : List Byte} (h : m.readSeq a n = some bs) : bs.length = n :=
  (Memory.readSeq_eq_some.1 h).1

/-- A payload byte taken is the stored byte of its index; once all are in, the byte behind them is taken as the stop byte. -/
theorem PeRow.payloadInFlight (h : PeRow s t) (hi : s.pe.Inv) {len : Byte} (hlen : s.hd.hfs.read 2 = some len)
    (hn : n ≤ len.toNat) (htail : tail ≠ [] → n = len.toNat) (hf : s.PayloadInFlight n tail) :
    t.PayloadInFlight n tail ∨ n = len.toNat ∧ t.p2h = [] ∧ t.pe.buf.readSeq 0 n = s.hd.hfs.readSeq 8 n ∧
      ∃ b, tail = b :: t.h2p ∧ t.StopTaken .wFinalAck b := by
  have ⟨hp, hm, k, q, hkn, hq, hh, hbuf, hs⟩ := hf
  have hpl : s.pe.len = some len := hm.len.trans hlen
  rcases hs with ⟨hs, c, hc, rfl⟩ | ⟨hs, len', hlen', rfl⟩
  · simp only [Pe.Inv, hs] at hi
    obtain ⟨-, -, c', -, hc', -, -, hfill⟩ := hi
    cases hc.symm.trans hc'
    cases h with
    | wait => exact .inl hf
    | payload c' len' b q' _ hc' hl hlt hq' =>
      cases hc.symm.trans hc'
      cases hpl.symm.trans hl
      cases q with
      | nil =>
        have hlast := Memory.readSeq_length hq
        rw [List.length_nil] at hlast
        have := htail (by rw [← List.nil_append tail, ← hh, hq']; exact List.cons_ne_nil _ _)
        omega
      | cons b' q =>
        cases hq'.symm.trans hh
        obtain ⟨hlt', hb, hq⟩ := Memory.readSeq_tail hq
        have hsucc := Cnt.toNat_succ (c := c) (by have := len.isLt; omega)
        exact .inl ⟨hp, hm, c.toNat + 1, q, by omega, by rwa [Nat.sub_sub] at hq, rfl,
          Memory.readSeq_write_copy hbuf hfill.readSeq_isSome hb, .inl ⟨rfl, c + 1, rfl, hsucc⟩⟩
    | payloadDone c' len' _ hc' hl heq =>
      cases hc.symm.trans hc'
      exact .inl ⟨hp, hm, c.toNat, q, hkn, hq, hh, hbuf, .inr ⟨rfl, len', hl, heq.symm⟩⟩
    | _ => simp_all
  · cases hpl.symm.trans hlen'
    rcases h.at_wStop hs with rfl | ⟨hp', hbuf', b, hb, hst⟩
    · exact .inl hf
    · have hn : n = len.toNat := by omega
      have hnil : q = [] := by simpa [hn, Memory.readSeq] using hq.symm
      exact .inr ⟨hn, hp'.trans hp, by rw [hbuf', hn, hbuf], b, by rw [← hb, hh, hnil]; rfl, hst⟩

/-- The bytes a Read has sent are among its samples, of which there are as many as the payload length says (R168, R169). -/
theorem State.ReadSent.length_le {len : Byte} (hr : s.ReadSent sent) (hlen : s.hd.hfs.read 2 = some len) :
    sent.length ≤ len.toNat := by
  obtain ⟨⟨-, hm, -⟩, ⟨-, rfl⟩ | ⟨-, c, len', -, hl, hbuf, rfl⟩ | ⟨-, rfl, len', hl, hsample⟩⟩ := hr
  · exact Nat.zero_le _
  · cases hl.symm.trans (hm.trans hlen)
    rw [List.length_take, Memory.readSeq_length hbuf]
    exact Nat.min_le_right _ _
  · cases hl.symm.trans (hm.trans hlen)
    exact Nat.le_of_eq hsample

/-- A Read sends its samples in order; only with all of them sent does the peripheral take a byte, the stop byte (R168 to R170). -/
theorem PeRow.readSent (h : PeRow s t) (hr : s.ReadSent sent) :
    t.h2p = s.h2p ∧ (∃ out, t.p2h = s.p2h ++ out ∧ t.ReadSent (sent ++ out)) ∨
      t.p2h = s.p2h ∧ sent = lastSample t.trace ∧ ∃ b, s.h2p = b :: t.h2p ∧ t.StopTaken .rFinalAck b := by
  have ⟨hm, hs⟩ := hr
  rcases hs with ⟨hs, rfl⟩ | ⟨hs, c, len, hc, hl, hbuf, rfl⟩ | ⟨hs, hsent, -⟩
  · cases h with
    | wait => exact .inl ⟨rfl, [], (List.append_nil _).symm, hr⟩
    | fill id len samples q _ _ hl _ hn =>
      refine .inl ⟨rfl, [], (List.append_nil _).symm, hm, .inr (.inl ⟨rfl, 0, len, rfl, hl, ?_, rfl⟩)⟩
      rw [lastSample_append_devr, ← hn]
      exact Memory.readSeq_writeSeq _ 0 samples
    | _ => simp_all
  · have hlast : lastSample t.trace = lastSample s.trace := h.lastSample_eq (by simp [hs])
    obtain ⟨hlength, hread⟩ := Memory.readSeq_eq_some.1 hbuf
    cases h with
    | wait => exact .inl ⟨rfl, [], (List.append_nil _).symm, by rwa [List.append_nil]⟩
    | stream c' len' b _ hc' hl' hlt hb =>
      cases hc.symm.trans hc'
      cases hl.symm.trans hl'
      have hsucc := Cnt.toNat_succ (c := c) (by have := len.isLt; omega)
      have hsample := hread c.toNat hlt
      rw [Nat.zero_add, hb] at hsample
      refine .inl ⟨rfl, [b], rfl, hm, .inr (.inl ⟨rfl, c + 1, len, rfl, hl, by rw [hlast]; exact hbuf, ?_⟩)⟩
      rw [hlast, hsucc, List.take_add_one, ← hsample]
      rfl
    | streamDone c' len' _ hc' hl' heq =>
      cases hc.symm.trans hc'
      cases hl.symm.trans hl'
      refine .inl ⟨rfl, [], (List.append_nil _).symm, hm, .inr (.inr ⟨rfl, ?_, len, hl, by rw [hlast, hlength]⟩)⟩
      rw [List.append_nil, hlast, heq, ← hlength, List.take_length]
    | _ => simp_all
  · rcases h.at_rStop hs with rfl | ⟨hp, b, hb, hst⟩
    · exact .inl ⟨rfl, [], (List.append_nil _).symm, by rwa [List.append_nil]⟩
    · exact .inr ⟨hp, by rw [hsent, h.lastSample_eq (by simp [hs])], b, hb, hst⟩

/-- What the host has received of a Read stays delivered while the peripheral calls for no new sample. -/
theorem PeRow.readDelivered (h : PeRow s t) (hs : s.pe.state ≠ .rFill) (hd : s.ReadDelivered) : t.ReadDelivered := by
  obtain ⟨len, hlen, hgot⟩ := hd
  rw [← h.host_eq.1] at hlen hgot
  exact ⟨len, hlen, by rw [hgot, h.lastSample_eq hs]⟩

/-- With the whole payload sent, the peripheral sends nothing more before the stop byte. -/
theorem PeRow.readSent_all (h : PeRow s t) {len : Byte} (hr : s.ReadSent sent) (hlen : s.hd.hfs.read 2 = some len)
    (hall : sent.length = len.toNat) :
    t.p2h = s.p2h ∧ (t.h2p = s.h2p ∧ t.ReadSent sent ∨
      sent = lastSample t.trace ∧ ∃ b, s.h2p = b :: t.h2p ∧ t.StopTaken .rFinalAck b) := by
  rcases h.readSent hr with ⟨hq, out, hp, hr'⟩ | ⟨hp, hstop⟩
  · have hle := hr'.length_le (h.host_eq.1 ▸ hlen)
    have hnil : out = [] := List.length_eq_zero_iff.1 (by rw [List.length_append] at hle; omega)
    rw [hnil, List.append_nil] at hp hr'
    exact ⟨hp, .inl ⟨hq, hr'⟩⟩
  · exact ⟨hp, .inr hstop⟩

/-- With nothing in flight, a peripheral that waits for the payload of a Write goes on to its stop position at most (R161). -/
theorem PeRow.payloadAwaited (h : PeRow s t) (hq : s.h2p = [])
    (hw : s.pe.state = .wPayload ∧ s.pe.cnt = some 0 ∨ s.pe.state = .wStop ∧ s.pe.len = some 0)
    (hm : s.HeaderMatches) :
    t.h2p = [] ∧ t.p2h = s.p2h ∧ t.HeaderMatches ∧
      (t.pe.state = .wPayload ∧ t.pe.cnt = some 0 ∨ t.pe.state = .wStop ∧ t.pe.len = some 0) := by
  rcases hw with ⟨hst, hc⟩ | ⟨hst, hl⟩
  · cases h with
    | wait => exact ⟨hq, rfl, hm, .inl ⟨hst, hc⟩⟩
    | payloadDone c len _ hc' hl heq =>
      cases hc.symm.trans hc'
      have hzero : len = 0 := BitVec.eq_of_toNat_eq heq.symm
      exact ⟨hq, rfl, hm, .inr ⟨rfl, hzero ▸ hl⟩⟩
    | _ => simp_all
  · rcases h.at_wStop hst with rfl | ⟨-, -, b, hb, -⟩
    · exact ⟨hq, rfl, hm, .inr ⟨hst, hl⟩⟩
    · cases hq.symm.trans hb

end

/-! ### Every move keeps the engines in step (R60, R62, R63, R217) -/

section
variable {s t : State} {b : Byte} {n : Nat} {sent : List Byte} {e : EnvMove}

/-- Every row of the peripheral keeps the engines in step, whatever the host is doing. -/
theorem PeRow.inStep (h : PeRow s t) (hi : s.Inv) (hs : s.InStep) : t.InStep := by
  obtain ⟨hpe, ⟨-, hhd⟩, -⟩ := hi
  obtain ⟨hstart, hs⟩ := hs
  have heq := h.host_eq.1
  refine ⟨by rwa [heq], ?_⟩
  rw [heq]
  cases hst : s.hd.state <;> simp only [hst] at hs hhd ⊢
  case idle =>
    obtain ⟨hq, hp, hrest⟩ := hs
    obtain ⟨hrest', hq', hp'⟩ := h.at_rest hrest hq
    exact ⟨hq', hp'.trans hp, hrest'⟩
  case retryPrompt =>
    obtain ⟨hq, hp, hw⟩ := hs
    cases h.at_waitStart hw hq
    exact ⟨hq, hp, hw⟩
  case sendHeader =>
    obtain ⟨c, hc, hf⟩ := hs
    obtain ⟨-, c', hc', h7⟩ := hhd
    cases hc.symm.trans hc'
    rcases h.headerInFlight hstart (by omega) hf with hf' | ⟨h8, -⟩
    · exact ⟨c, hc, hf'⟩
    · omega
  case waitHdrAck =>
    rcases hs with hf | hu | ⟨hq, hp, hw⟩ | ⟨hq, hp, hm, hw⟩ | ⟨hq, sent, hp, hr⟩
    · exact (h.headerInFlight hstart (Nat.le_refl _) hf).imp_right fun ⟨_, hu⟩ => .inl hu
    · rcases h.headerUndecided hpe hu with hu' | ⟨hq, ⟨hp, hw⟩ | ⟨hp, hm, hw, hc⟩ | ⟨hp, hr⟩⟩
      · exact .inr (.inl hu')
      · exact .inr (.inr (.inl ⟨hq, hp, hw⟩))
      · exact .inr (.inr (.inr (.inl ⟨hq, hp, hm, .inl ⟨hw, hc⟩⟩)))
      · exact .inr (.inr (.inr (.inr ⟨hq, [], hp, hr⟩)))
    · cases h.at_waitStart hw hq
      exact .inr (.inr (.inl ⟨hq, hp, hw⟩))
    · obtain ⟨hq', hp', hm', hw'⟩ := h.payloadAwaited hq hw hm
      exact .inr (.inr (.inr (.inl ⟨hq', hp'.trans hp, hm', hw'⟩)))
    · rcases h.readSent hr with ⟨hq', out, hp', hr'⟩ | ⟨-, -, b, hb, -⟩
      · exact .inr (.inr (.inr (.inr ⟨hq'.trans hq, sent ++ out, by rw [hp', hp]; rfl, hr'⟩)))
      · cases hq.symm.trans hb
  case wSendPayload =>
    obtain ⟨c, hc, hf⟩ := hs
    obtain ⟨-, c', len, hc', hlen, hle⟩ := hhd
    cases hc.symm.trans hc'
    rcases h.payloadInFlight hpe hlen hle (absurd rfl) hf with hf' | ⟨-, -, -, b, hb, -⟩
    · exact ⟨c, hc, hf'⟩
    · cases hb
  case wSendStop =>
    obtain ⟨len, hlen, hf⟩ := hs
    rcases h.payloadInFlight hpe hlen (Nat.le_refl _) (absurd rfl) hf with hf' | ⟨-, -, -, b, hb, -⟩
    · exact ⟨len, hlen, hf'⟩
    · cases hb
  case wWaitFinal =>
    rcases hs with ⟨len, b, hlen, hb, hf⟩ | ⟨hq, hp, hw, hb⟩ | ⟨hq, hp, hw, hb⟩ | ⟨hq, hp, hrest, hb⟩ | ⟨hq, hp, hw, hb⟩
    · rcases h.payloadInFlight hpe hlen (Nat.le_refl _) (fun _ => rfl) hf with hf' | ⟨-, hp, -, b', hb', hstop⟩
      · exact .inl ⟨len, b, hlen, hb, hf'⟩
      · obtain ⟨rfl, hq⟩ := List.cons.inj hb'
        rcases hstop with ⟨rfl, hw⟩ | ⟨hne, hw⟩
        · exact .inr (.inl ⟨hq.symm, hp, hw, hb⟩)
        · exact .inr (.inr (.inl ⟨hq.symm, hp, hw, by simpa [hb] using hne⟩))
    · rcases h.at_wFinalAck hw with rfl | ⟨hq', hp', hw'⟩
      · exact .inr (.inl ⟨hq, hp, hw, hb⟩)
      · exact .inr (.inr (.inr (.inl ⟨hq'.trans hq, by rw [hp', hp]; rfl, .inr hw', hb⟩)))
    · rcases h.at_sendNack hw with rfl | ⟨hq', hp', hw'⟩
      · exact .inr (.inr (.inl ⟨hq, hp, hw, hb⟩))
      · exact .inr (.inr (.inr (.inr ⟨hq'.trans hq, by rw [hp', hp]; rfl, hw', hb⟩)))
    · obtain ⟨hrest', hq', hp'⟩ := h.at_rest hrest hq
      exact .inr (.inr (.inr (.inl ⟨hq', hp'.trans hp, hrest', hb⟩)))
    · cases h.at_waitStart hw hq
      exact .inr (.inr (.inr (.inr ⟨hq, hp, hw, hb⟩)))
  case rRecvPayload =>
    obtain ⟨hq, c, got, hc, hgot, hr⟩ := hs
    rcases h.readSent hr with ⟨hq', out, hp', hr'⟩ | ⟨-, -, b, hb, -⟩
    · exact ⟨hq'.trans hq, c, got, hc, hgot, by rwa [hp', ← List.append_assoc]⟩
    · cases hq.symm.trans hb
  case rSendStop =>
    obtain ⟨hq, hp, len, got, hlen, hgot, hr⟩ := hs
    obtain ⟨hp', ⟨hq', hr'⟩ | ⟨-, b, hb, -⟩⟩ := h.readSent_all hr hlen (Memory.readSeq_length hgot)
    · exact ⟨hq'.trans hq, hp'.trans hp, len, got, hlen, hgot, hr'⟩
    · cases hq.symm.trans hb
  case rWaitFinal =>
    rcases hs with ⟨hp, len, got, b, hlen, hgot, hb, hq, hr⟩ | ⟨hq, hp, hw, hb, hd⟩ | ⟨hq, hp, hw, hb, hd⟩ |
      ⟨hq, hp, hw, hb, hd⟩ | ⟨hq, hp, hw, hb, hd⟩
    · obtain ⟨hp', ⟨hq', hr'⟩ | ⟨hsample, b', hb', hstop⟩⟩ := h.readSent_all hr hlen (Memory.readSeq_length hgot)
      · exact .inl ⟨hp'.trans hp, len, got, b, hlen, hgot, hb, hq'.trans hq, hr'⟩
      · obtain ⟨rfl, hq'⟩ := List.cons.inj (hq.symm.trans hb')
        have hd : t.ReadDelivered := ⟨len, by rw [heq, hlen], by rw [heq, hgot, hsample]⟩
        rcases hstop with ⟨rfl, hw⟩ | ⟨hne, hw⟩
        · exact .inr (.inl ⟨hq'.symm, hp'.trans hp, hw, hb, hd⟩)
        · exact .inr (.inr (.inl ⟨hq'.symm, hp'.trans hp, hw, by simpa [hb] using hne, hd⟩))
    all_goals have hd' := h.readDelivered (by simp [hw]) hd
    · rcases h.at_rFinalAck hw with rfl | ⟨hq', hp', hw'⟩
      · exact .inr (.inl ⟨hq, hp, hw, hb, hd'⟩)
      · exact .inr (.inr (.inr (.inl ⟨hq'.trans hq, by rw [hp', hp]; rfl, hw', hb, hd'⟩)))
    · rcases h.at_sendNack hw with rfl | ⟨hq', hp', hw'⟩
      · exact .inr (.inr (.inl ⟨hq, hp, hw, hb, hd'⟩))
      · exact .inr (.inr (.inr (.inr ⟨hq'.trans hq, by rw [hp', hp]; rfl, hw', hb, hd'⟩)))
    · cases h.at_waitStart hw hq
      exact .inr (.inr (.inr (.inl ⟨hq, hp, hw, hb, hd'⟩)))
    · cases h.at_waitStart hw hq
      exact .inr (.inr (.inr (.inr ⟨hq, hp, hw, hb, hd'⟩)))

/-- The host's next header byte joins those in flight (R203). -/
theorem State.HeaderInFlight.send (hf : s.HeaderInFlight n) (hb : s.hd.hfs.read n = some b) :
    (s.setH2p (s.h2p ++ [b])).HeaderInFlight (n + 1) := by
  obtain ⟨hp, k, hkn, hk8, hq, hpe⟩ := hf
  refine ⟨hp, k, by omega, hk8, ?_, hpe⟩
  rw [Nat.sub_add_comm hkn]
  exact Memory.readSeq_snoc hq (by rwa [Nat.add_sub_cancel' hkn])

/-- The host's next payload byte joins those in flight (R207). -/
theorem State.PayloadInFlight.send (hf : s.PayloadInFlight n []) (hb : s.hd.hfs.read (8 + n) = some b) :
    (s.setH2p (s.h2p ++ [b])).PayloadInFlight (n + 1) [] := by
  obtain ⟨hp, hm, k, q, hkn, hq, hh, hpe⟩ := hf
  refine ⟨hp, hm, k, q ++ [b], by omega, ?_, by rw [State.setH2p, hh]; simp, hpe⟩
  rw [Nat.sub_add_comm hkn]
  exact Memory.readSeq_snoc hq (by rwa [Nat.add_assoc, Nat.add_sub_cancel' hkn])

/-- The host's stop byte goes behind the payload bytes in flight (R207). -/
theorem State.PayloadInFlight.sendStop (hf : s.PayloadInFlight n []) :
    (s.setH2p (s.h2p ++ [b])).PayloadInFlight n [b] := by
  obtain ⟨hp, hm, k, q, hkn, hq, hh, hpe⟩ := hf
  exact ⟨hp, hm, k, q, hkn, hq, by rw [State.setH2p, hh]; simp, hpe⟩

/-- A peripheral that awaits a payload holds a Write header. -/
theorem Pe.Inv.mode_of_payload {p : Pe} (hi : p.Inv) (hs : p.state = .wPayload ∨ p.state = .wStop) :
    p.mode = some Config.modeWrite := by
  rcases hs with hs | hs <;> simp only [Pe.Inv, hs] at hi
  all_goals
    obtain ⟨⟨-, -, hmode⟩, -⟩ := hi
    exact hmode

/-- A peripheral in its Read flow holds a Read header. -/
theorem State.ReadSent.mode (hr : s.ReadSent sent) (hi : s.pe.Inv) : s.pe.mode = some Config.modeRead := by
  obtain ⟨-, ⟨hs, -⟩ | ⟨hs, -⟩ | ⟨hs, -⟩⟩ := hr <;> simp only [Pe.Inv, hs] at hi
  all_goals
    obtain ⟨⟨-, -, hmode⟩, -⟩ := hi
    exact hmode

/-- A row of the host calls for no sample and leaves the frame store alone, so what a Read has sent is as before it. -/
theorem HdRow.readSent (h : HdRow s t) (hr : s.ReadSent sent) : t.ReadSent sent := by
  have hlast : lastSample t.trace = lastSample s.trace := by cases h <;> simp [lastSample]
  have hstore : t.hd.hfs = s.hd.hfs := by cases h <;> rfl
  simpa only [State.ReadSent, State.HeaderMatches, h.peripheral_eq.1, hstore, hlast] using hr

/-- When the final acknowledgment is in flight, nothing else is, and the peripheral is at rest. -/
theorem State.InStep.at_final (hs : s.InStep) (hst : s.hd.state = .wWaitFinal ∨ s.hd.state = .rWaitFinal)
    {q : List Byte} (hq : s.p2h = b :: q) : s.h2p = [] ∧ q = [] ∧ s.PeAtRest := by
  obtain ⟨-, hin⟩ := hs
  rcases hst with hst | hst <;> simp only [hst] at hin
  · rcases hin with ⟨_, _, -, -, hp, -⟩ | ⟨-, hp, -⟩ | ⟨-, hp, -⟩ | ⟨hh, hp, hrest, -⟩ | ⟨hh, hp, hw, -⟩ <;>
      cases hq.symm.trans hp
    · exact ⟨hh, rfl, hrest⟩
    · exact ⟨hh, rfl, .inl hw⟩
  · rcases hin with ⟨hp, -⟩ | ⟨-, hp, -⟩ | ⟨-, hp, -⟩ | ⟨hh, hp, hw, -⟩ | ⟨hh, hp, hw, -⟩ <;> cases hq.symm.trans hp
    · exact ⟨hh, rfl, .inl hw⟩
    · exact ⟨hh, rfl, .inl hw⟩

/-- Every row of the host keeps the engines in step. -/
theorem HdRow.inStep (h : HdRow s t) (hi : s.Inv) (hs : s.InStep) : t.InStep := by
  obtain ⟨hpe, -, -⟩ := hi
  have ⟨hstart, hin⟩ := hs
  have hread : ∀ {sent}, s.ReadSent sent → t.ReadSent sent := h.readSent
  cases h with
  | wait => exact hs
  | opStart hst =>
    simp only [hst] at hin
    obtain ⟨hq, hp, hrest⟩ := hin
    exact ⟨hstart, 0, rfl, hp, 0, Nat.le_refl _, by decide, by rw [hq]; rfl, .inl ⟨rfl, hrest⟩⟩
  | opRetry hst =>
    simp only [hst] at hin
    obtain ⟨hq, hp, hw⟩ := hin
    exact ⟨hstart, 0, rfl, hp, 0, Nat.le_refl _, by decide, by rw [hq]; rfl, .inl ⟨rfl, .inl hw⟩⟩
  | header c b hst hc hlt hb =>
    simp only [hst] at hin
    obtain ⟨c', hc', hf⟩ := hin
    cases hc.symm.trans hc'
    refine ⟨hstart, c + 1, rfl, ?_⟩
    rw [Cnt.toNat_succ (by omega)]
    exact hf.send hb
  | headerLast c b hst hc heq hb =>
    simp only [hst] at hin
    obtain ⟨c', hc', hf⟩ := hin
    cases hc.symm.trans hc'
    rw [heq] at hf
    exact ⟨hstart, .inl (hf.send hb)⟩
  | headerAck m q hst hq hm =>
    simp only [hst] at hin
    rcases hin with ⟨hp, -⟩ | ⟨-, hp, -⟩ | ⟨-, hp, -⟩ | ⟨hh, hp, hmatch, hw⟩ | ⟨hh, sent, hp, hr⟩ <;>
      cases hq.symm.trans hp
    · cases (hpe.mode_of_payload (hw.imp And.left And.left)).symm.trans (hmatch.mode.trans hm)
      refine ⟨hstart, 0, rfl, rfl, hmatch, 0, [], Nat.le_refl _, rfl, hh, rfl, ?_⟩
      exact hw.imp (fun ⟨h1, h2⟩ => ⟨h1, 0, h2, rfl⟩) (fun ⟨h1, h2⟩ => ⟨h1, 0, h2, rfl⟩)
    · have ⟨hmatch, _⟩ := hr
      cases (hr.mode hpe).symm.trans (hmatch.mode.trans hm)
      exact ⟨hstart, hh, 0, [], rfl, rfl, hread hr⟩
  | headerNack b q hst hb hq =>
    simp only [hst] at hin
    rcases hin with ⟨hp, -⟩ | ⟨-, hp, -⟩ | ⟨hh, hp, hw⟩ | ⟨-, hp, -⟩ | ⟨-, sent, hp, -⟩ <;>
      cases hq.symm.trans hp
    · exact ⟨hstart, hh, rfl, hw⟩
    · exact absurd rfl hb
    · exact absurd rfl hb
  | payload c len b hst hc hl hlt hb =>
    simp only [hst] at hin
    obtain ⟨c', hc', hf⟩ := hin
    cases hc.symm.trans hc'
    refine ⟨hstart, c + 1, rfl, ?_⟩
    rw [Cnt.toNat_succ (by have := len.isLt; omega)]
    exact hf.send hb
  | payloadDone c len hst hc hl heq =>
    simp only [hst] at hin
    obtain ⟨c', hc', hf⟩ := hin
    cases hc.symm.trans hc'
    exact ⟨hstart, len, hl, heq ▸ hf⟩
  | writeStop len b hst hl hb =>
    simp only [hst] at hin
    obtain ⟨len', hl', hf⟩ := hin
    cases hl.symm.trans hl'
    exact ⟨hstart, .inl ⟨len, b, hl, by simp only [Hd.stopByte, hl, hb], hf.sendStop⟩⟩
  | final b q hst hq => exact ⟨hstart, hs.at_final hst hq⟩
  | receive c len b q hst hc hl hlt hq =>
    simp only [hst] at hin
    obtain ⟨hh, c', got, hc', hgot, hr⟩ := hin
    cases hc.symm.trans hc'
    have hwrite := Memory.readSeq_write_snoc b hgot
    rw [Nat.zero_add] at hwrite
    refine ⟨hstart, hh, c + 1, got ++ [b], rfl, ?_, ?_⟩
    · rw [Cnt.toNat_succ (by have := len.isLt; omega)]
      exact hwrite
    · rw [hq] at hr
      rw [List.append_assoc]
      exact hread hr
  | receiveDone c len hst hc hl heq =>
    simp only [hst] at hin
    obtain ⟨hh, c', got, hc', hgot, hr⟩ := hin
    cases hc.symm.trans hc'
    rw [heq] at hgot
    have hle := hr.length_le hl
    rw [List.length_append, Memory.readSeq_length hgot] at hle
    have hnil : s.p2h = [] := List.length_eq_zero_iff.1 (by omega)
    rw [hnil, List.append_nil] at hr
    refine ⟨hstart, hh, hnil, len, got, hl, ?_, hread hr⟩
    rw [Memory.readSeq_truncate _ (by omega)]
    exact hgot
  | readStop len b hst hl hb =>
    simp only [hst] at hin
    obtain ⟨hh, hp, len', got, hl', hgot, hr⟩ := hin
    exact ⟨hstart, .inl ⟨hp, len', got, b, hl', hgot, by simp only [Hd.stopByte, hl, hb], by rw [hh]; rfl, hread hr⟩⟩

/-- A conforming move of the environment keeps the engines in step. -/
theorem EnvRow.inStep (h : EnvRow s e t) (hc : (Move.env e).Conforming) (hs : s.InStep) : t.InStep := by
  have ⟨hstart, hin⟩ := hs
  cases h with
  | opStart | opRetry | opIgnored | allocAnswer | adcSample | devwReturn => exact hs
  | loadStore bytes len hidle =>
    simp only [hidle] at hin
    refine ⟨.inr ((Memory.read_ofBytes bytes 0).trans hc), ?_⟩
    simp only [hidle]
    exact hin
  | _ => exact False.elim hc

theorem State.afterChoice_inStep (hs : s.InStep) : s.afterChoice.InStep := by
  obtain ⟨ms, a, h⟩ := s.afterChoice_eq
  rw [h]
  exact hs

end

/-- Settles O54: each engine's rows and each conforming move of the environment keep the engines in step. -/
theorem enginesStayInStep : Obligations.EnginesStayInStep := by
  intro s t hi hs hconf h
  have hi' := State.afterChoice_inv hi
  have hs' := State.afterChoice_inStep hs
  rcases step_cases s with ⟨e, ms, hscript, hstep⟩ | ⟨a, hstep, -⟩ <;> rw [hstep] at h
  · exact (envRow_of_envStep h).inStep (hconf _ (by rw [hscript]; rfl)) hs'
  · cases a with
    | pe => exact (peRow_of_agentStep h).inStep hi' hs'
    | hd => exact (hdRow_of_agentStep h).inStep hi' hs'

/-! ### Half-duplex (R64) -/

section
variable {s : State} {n : Nat} {tail : List Byte}

/-- One direction of the channel is empty: the host waits for every answer, and the peripheral for every frame. -/
theorem State.InStep.queue_empty (hs : s.InStep) : s.h2p = [] ∨ s.p2h = [] := by
  obtain ⟨-, hin⟩ := hs
  cases hst : s.hd.state <;> simp only [hst] at hin
  case idle | retryPrompt | rRecvPayload | rSendStop => exact .inl hin.1
  case sendHeader | wSendPayload | wSendStop =>
    obtain ⟨_, -, hp, -⟩ := hin
    exact .inr hp
  case waitHdrAck =>
    rcases hin with ⟨hp, -⟩ | ⟨hh, -⟩ | ⟨hh, -⟩ | ⟨hh, -⟩ | ⟨hh, -⟩
    · exact .inr hp
    all_goals exact .inl hh
  case wWaitFinal =>
    rcases hin with ⟨_, _, -, -, hp, -⟩ | ⟨hh, -⟩ | ⟨hh, -⟩ | ⟨hh, -⟩ | ⟨hh, -⟩
    · exact .inr hp
    all_goals exact .inl hh
  case rWaitFinal =>
    rcases hin with ⟨hp, -⟩ | ⟨hh, -⟩ | ⟨hh, -⟩ | ⟨hh, -⟩ | ⟨hh, -⟩
    · exact .inr hp
    all_goals exact .inl hh

/-- A peripheral with header bytes on their way to it offers no byte. -/
theorem State.HeaderInFlight.not_peSending (hf : s.HeaderInFlight n) : ¬s.PeSending := by
  obtain ⟨-, k, -, -, -, ⟨-, hs | hs⟩ | ⟨hs, -⟩⟩ := hf <;> simp [State.PeSending, hs]

/-- A peripheral that takes a payload is in one of its receiving states, so it offers no byte. -/
theorem State.PayloadInFlight.receiving (hf : s.PayloadInFlight n tail) : s.pe.state = .wPayload ∨ s.pe.state = .wStop := by
  obtain ⟨-, -, k, q, -, -, -, -, hs⟩ := hf
  exact hs.imp And.left And.left

theorem State.PayloadInFlight.not_peSending (hf : s.PayloadInFlight n tail) : ¬s.PeSending := by
  rcases hf.receiving with hs | hs <;> simp [State.PeSending, hs]

/-- With the whole payload of a Read sent, the peripheral offers no further byte. -/
theorem State.ReadSent.not_peSending {sent : List Byte} {len : Byte} (hr : s.ReadSent sent)
    (hlen : s.hd.hfs.read 2 = some len) (hall : sent.length = len.toNat) : ¬s.PeSending := by
  obtain ⟨⟨-, hm, -⟩, ⟨hs, -⟩ | ⟨hs, c, len', hc, hl, -, rfl⟩ | ⟨hs, -⟩⟩ := hr <;>
    simp only [State.PeSending, hs, not_false_eq_true]
  rintro ⟨c', len'', hc', hl'', hlt⟩
  cases hc.symm.trans hc'
  cases hl''.symm.trans (hm.trans hlen)
  rw [List.length_take] at hall
  omega

/-- While the host sends, the peripheral receives. -/
theorem State.InStep.not_both_sending (hs : s.InStep) (hhd : s.HdSending) : ¬s.PeSending := by
  obtain ⟨-, hin⟩ := hs
  cases hst : s.hd.state <;> simp only [hst, State.HdSending] at hin hhd
  case sendHeader =>
    obtain ⟨c, -, hf⟩ := hin
    exact hf.not_peSending
  case wSendPayload | wSendStop =>
    obtain ⟨_, -, hf⟩ := hin
    exact hf.not_peSending
  case rSendStop =>
    obtain ⟨-, -, len, got, hlen, hgot, hr⟩ := hin
    exact hr.not_peSending hlen (Memory.readSeq_length hgot)

end

/-- Settles O55: by what is in flight and where the peripheral is, for each state of the host. -/
theorem halfDuplex : Obligations.HalfDuplex :=
  fun _ _ hs => ⟨hs.queue_empty, fun ⟨hpe, hhd⟩ => hs.not_both_sending hhd hpe⟩

/-! ### The payload of a Write in `BUF` (R52, R161) -/

/-- Settles O57: at its stop position the peripheral has all the payload bytes, and taking the stop byte leaves `BUF` alone. -/
theorem payloadIntact : Obligations.PayloadIntact := by
  intro s t hi ⟨_, hin⟩ hw hst h hne
  simp only [hst] at hin
  rcases hin with ⟨len, b, hlen, -, hf⟩ | ⟨-, -, hw', -⟩ | ⟨-, -, hw', -⟩ | ⟨-, -, hw' | hw', -⟩ | ⟨-, -, hw', -⟩
  · obtain ⟨-, hm, k, q, -, -, -, hbuf, ⟨hw', -⟩ | ⟨-, len', hl, rfl⟩⟩ := hf
    · cases hw.symm.trans hw'
    · cases hl.symm.trans (hm.len.trans hlen)
      rcases (peRow_of_agentStep h).at_wStop hw with rfl | ⟨-, hbuf', -⟩
      · exact absurd hw hne
      · exact ⟨len, hlen, by rw [hbuf', hbuf]⟩
  all_goals cases hw.symm.trans hw'

/-! ### The depths that suffice (R293) -/

section
variable {s : State} {n : Nat} {tail : List Byte}

theorem State.HeaderInFlight.length_le (hf : s.HeaderInFlight n) : s.h2p.length ≤ n := by
  obtain ⟨-, k, -, -, hq, -⟩ := hf
  rw [Memory.readSeq_length hq]
  exact Nat.sub_le n k

theorem State.PayloadInFlight.peRxReady (hf : s.PayloadInFlight n tail) : s.peRxReady = true := by
  rcases hf.receiving with hs | hs <;> simp [State.peRxReady, hs]

/-- More than a header's bytes wait only for a peripheral that is receiving a payload. -/
theorem State.InStep.h2p_kept (hi : s.Inv) (hs : s.InStep) : s.h2p.length ≤ 8 ∨ s.peRxReady = true := by
  obtain ⟨-, ⟨-, hhd⟩, -⟩ := hi
  obtain ⟨-, hin⟩ := hs
  have hempty : s.h2p = [] → s.h2p.length ≤ 8 ∨ s.peRxReady = true := fun hh => .inl (by simp [hh])
  cases hst : s.hd.state <;> simp only [hst] at hin hhd
  case idle | retryPrompt | rRecvPayload | rSendStop => exact hempty hin.1
  case sendHeader =>
    obtain ⟨c, hc, hf⟩ := hin
    obtain ⟨-, c', hc', h7⟩ := hhd
    cases hc.symm.trans hc'
    exact .inl (hf.length_le.trans (by omega))
  case waitHdrAck =>
    rcases hin with hf | ⟨hh, -⟩ | ⟨hh, -⟩ | ⟨hh, -⟩ | ⟨hh, -⟩
    · exact .inl hf.length_le
    all_goals exact hempty hh
  case wSendPayload | wSendStop =>
    obtain ⟨_, -, hf⟩ := hin
    exact .inr hf.peRxReady
  case wWaitFinal =>
    rcases hin with ⟨_, _, -, -, hf⟩ | ⟨hh, -⟩ | ⟨hh, -⟩ | ⟨hh, -⟩ | ⟨hh, -⟩
    · exact .inr hf.peRxReady
    all_goals exact hempty hh
  case rWaitFinal =>
    rcases hin with ⟨-, _, _, b, -, -, -, hh, -⟩ | ⟨hh, -⟩ | ⟨hh, -⟩ | ⟨hh, -⟩ | ⟨hh, -⟩
    · exact .inl (by simp [hh])
    all_goals exact hempty hh

/-- Bytes wait only for a host that is receiving. -/
theorem State.InStep.p2h_kept (hs : s.InStep) : s.p2h = [] ∨ s.hdRxReady = true := by
  obtain ⟨-, hin⟩ := hs
  cases hst : s.hd.state <;> simp only [hst, State.hdRxReady] at hin ⊢
  case idle | retryPrompt | rSendStop =>
    obtain ⟨-, hp, -⟩ := hin
    exact .inl hp
  case sendHeader | wSendPayload | wSendStop =>
    obtain ⟨_, -, hp, -⟩ := hin
    exact .inl hp
  all_goals exact .inr trivial

end

/-- Settles O59: each queue is within the depth the guarantees need, or its engine is receiving. -/
theorem eightAndOneSuffice : Obligations.EightAndOneSuffice := by
  intro s d i hi hs hideal hpe hhd
  cases hn : s.rxDepth d with
  | none => exact envStep_chDelete_refused i (State.mayLose_of_unbounded hideal hn)
  | some n =>
    refine envStep_chDelete_refused_of_kept i hideal hn ?_
    cases d with
    | h2p => exact (hs.h2p_kept hi).imp (fun hle => hle.trans (hpe n hn)) (fun hr => ⟨hpe n hn, hr⟩)
    | p2h => exact hs.p2h_kept.imp (fun hp => by simp [State.queue, hp]) (fun hr => ⟨hhd n hn, hr⟩)

end Sys2Proof.Machine

/-! ## Family `30_encoding`: the codec's round trip, the table read alone, where a step reads what it executes -/

namespace Sys2Proof.Machine

/-! ### What each decoder reads (R81, R91 to R93) -/

section
variable {c : Context} {start id len mode b : Byte} {rsv : Rsv} {bs rest : List Byte} {i : Instr}

/-- The identifier of a two-bit device has the block's board bits, and its low two bits are the device. -/
theorem device_bits : ∀ d : DevId, (d.setWidth 8 : Byte) &&& 0xFC = 0x00 ∧ (d.setWidth 8 : Byte).setWidth 2 = d := by
  decide

/-- An identifier with the block's board bits is one of four, and its low two bits give it back. -/
theorem goodBoard_cases : ∀ id : Byte, id &&& 0xFC = 0x00 →
    (id.setWidth 2 : DevId).setWidth 8 = id ∧ (id = 0x00 ∨ id = 0x01 ∨ id = 0x02 ∨ id = 0x03) := by
  decide

theorem decodeHeader_of_badBoard (h : id &&& 0xFC ≠ 0x00) :
    decodeHeader id len mode rsv = .hdrBadBoard id len mode rsv := if_pos h

theorem decodeHeader_of_read (h : id &&& 0xFC = 0x00) :
    decodeHeader id len 0x01 rsv = .readAdc (id.setWidth 2) len rsv := by
  rw [decodeHeader, if_neg (not_not.2 h), if_pos rfl]

theorem decodeHeader_of_badMode (h : id &&& 0xFC = 0x00) (h1 : mode ≠ 0x01) (h2 : mode ≠ 0x02) :
    decodeHeader id len mode rsv = .hdrBadMode (id.setWidth 2) len mode rsv := by
  rw [decodeHeader, if_neg (not_not.2 h), if_neg h1, if_neg h2]

/-- The bytes are those of the instruction, which is well formed and belongs to the context. -/
structure Encodes (c : Context) (bs : List Byte) (i : Instr) : Prop where
  wellFormed : WellFormed i = true
  context : i.context = c
  bytes : encode i = bs

theorem encodes_decodeHeader : Encodes .peHeader (headerBytes 0xFE id len mode rsv) (decodeHeader id len mode rsv) := by
  by_cases hboard : id &&& 0xFC = 0x00
  · obtain ⟨hdev, hid⟩ := goodBoard_cases id hboard
    by_cases h1 : mode = 0x01
    · subst h1
      rw [decodeHeader_of_read hboard]
      exact ⟨rfl, rfl, by rw [encode, hdev]⟩
    · by_cases h2 : mode = 0x02
      · subst h2
        rcases hid with rfl | rfl | rfl | rfl <;> exact ⟨rfl, rfl, rfl⟩
      · rw [decodeHeader_of_badMode hboard h1 h2]
        exact ⟨by simpa [WellFormed] using ⟨h1, h2⟩, rfl, by rw [encode, hdev]⟩
  · rw [decodeHeader_of_badBoard hboard]
    exact ⟨by simpa [WellFormed] using hboard, rfl, rfl⟩

theorem encodes_decodeStore :
    Encodes .hdFrameStore (headerBytes start id len mode rsv) (decodeStore start id len mode rsv) := by
  unfold decodeStore
  split
  · subst mode
    exact ⟨rfl, rfl, rfl⟩
  · exact ⟨by simpa [WellFormed], rfl, rfl⟩

theorem encodes_decodeWaitStart : Encodes .peWaitStart [b] (decodeWaitStart b) := by
  unfold decodeWaitStart
  split
  · subst b
    exact ⟨rfl, rfl, rfl⟩
  · exact ⟨by simpa [WellFormed], rfl, rfl⟩

theorem encodes_decodeStop : Encodes .peStop [b] (decodeStop b) := by
  unfold decodeStop
  split
  · subst b
    exact ⟨rfl, rfl, rfl⟩
  · exact ⟨by simpa [WellFormed], rfl, rfl⟩

theorem encodes_decodeAck : Encodes .hdAck [b] (decodeAck b) := by
  unfold decodeAck
  split
  · subst b
    exact ⟨rfl, rfl, rfl⟩
  · rename_i hack
    split
    · subst b
      exact ⟨rfl, rfl, rfl⟩
    · rename_i hnack
      exact ⟨by simpa [WellFormed] using ⟨hack, hnack⟩, rfl, rfl⟩

/-! ### What bytes a context's decoder reads, and as what -/

theorem decode_peHeader_eq_ok : decode .peHeader bs = .ok i rest ↔
    ∃ id len mode rsv, bs = headerBytes 0xFE id len mode rsv ++ rest ∧ decodeHeader id len mode rsv = i := by
  constructor
  · intro h
    simp only [decode] at h
    split at h
    · split at h <;> cases h
      subst_vars
      exact ⟨_, _, _, ⟨_, _, _, _⟩, rfl, rfl⟩
    · cases h
  · rintro ⟨id, len, mode, rsv, rfl, rfl⟩
    rfl

theorem decode_hdFrameStore_eq_ok : decode .hdFrameStore bs = .ok i rest ↔
    ∃ start id len mode rsv, bs = headerBytes start id len mode rsv ++ rest ∧ decodeStore start id len mode rsv = i := by
  constructor
  · intro h
    simp only [decode] at h
    split at h <;> cases h
    exact ⟨_, _, _, _, ⟨_, _, _, _⟩, rfl, rfl⟩
  · rintro ⟨start, id, len, mode, rsv, rfl, rfl⟩
    rfl

theorem decode_peWaitStart_eq_ok :
    decode .peWaitStart bs = .ok i rest ↔ ∃ b, bs = b :: rest ∧ decodeWaitStart b = i := by
  cases bs <;> simp [decode, and_comm]

theorem decode_peStop_eq_ok : decode .peStop bs = .ok i rest ↔ ∃ b, bs = b :: rest ∧ decodeStop b = i := by
  cases bs <;> simp [decode, and_comm]

theorem decode_hdAck_eq_ok : decode .hdAck bs = .ok i rest ↔ ∃ b, bs = b :: rest ∧ decodeAck b = i := by
  cases bs <;> simp [decode, and_comm]

/-- Whatever is decoded is encoded by the bytes in front of the rest. -/
theorem encodes_of_decode (h : decode c bs = .ok i rest) : ∃ read, Encodes c read i ∧ read ++ rest = bs := by
  cases c with
  | peHeader =>
    obtain ⟨id, len, mode, rsv, rfl, rfl⟩ := decode_peHeader_eq_ok.1 h
    exact ⟨_, encodes_decodeHeader, rfl⟩
  | hdFrameStore =>
    obtain ⟨start, id, len, mode, rsv, rfl, rfl⟩ := decode_hdFrameStore_eq_ok.1 h
    exact ⟨_, encodes_decodeStore, rfl⟩
  | peWaitStart =>
    obtain ⟨b, rfl, rfl⟩ := decode_peWaitStart_eq_ok.1 h
    exact ⟨_, encodes_decodeWaitStart, rfl⟩
  | peStop =>
    obtain ⟨b, rfl, rfl⟩ := decode_peStop_eq_ok.1 h
    exact ⟨_, encodes_decodeStop, rfl⟩
  | hdAck =>
    obtain ⟨b, rfl, rfl⟩ := decode_hdAck_eq_ok.1 h
    exact ⟨_, encodes_decodeAck, rfl⟩

/-- A header instruction's bytes are a header that decodes to it. -/
theorem exists_decodeHeader_eq (hc : i.context = .peHeader) (hwf : WellFormed i = true) :
    ∃ id len mode rsv, encode i = headerBytes 0xFE id len mode rsv ∧ decodeHeader id len mode rsv = i := by
  cases i with
  | readAdc dev len rsv =>
    obtain ⟨hboard, hdev⟩ := device_bits dev
    exact ⟨_, _, _, _, rfl, by rw [decodeHeader_of_read hboard, hdev]⟩
  | writeLed | writeLcd1 | writeLcd2 | writeLcd3 => exact ⟨_, _, _, _, rfl, rfl⟩
  | hdrBadMode dev len mode rsv =>
    obtain ⟨hboard, hdev⟩ := device_bits dev
    obtain ⟨h1, h2⟩ : mode ≠ 0x01 ∧ mode ≠ 0x02 := by simpa [WellFormed] using hwf
    exact ⟨_, _, _, _, rfl, by rw [decodeHeader_of_badMode hboard h1 h2, hdev]⟩
  | hdrBadBoard id len mode rsv =>
    exact ⟨_, _, _, _, rfl, decodeHeader_of_badBoard (by simpa [WellFormed] using hwf)⟩
  | _ => cases hc

/-- A stored frame's bytes are a stored header that decodes to it. -/
theorem exists_decodeStore_eq (hc : i.context = .hdFrameStore) (hwf : WellFormed i = true) :
    ∃ start id len mode rsv, encode i = headerBytes start id len mode rsv ∧ decodeStore start id len mode rsv = i := by
  cases i with
  | hostRead => exact ⟨_, _, _, _, _, rfl, rfl⟩
  | hostWrite start id len mode rsv => exact ⟨_, _, _, _, _, rfl, if_neg (by simpa [WellFormed] using hwf)⟩
  | _ => cases hc

theorem exists_decodeWaitStart_eq (hc : i.context = .peWaitStart) (hwf : WellFormed i = true) :
    ∃ b, encode i = [b] ∧ decodeWaitStart b = i := by
  cases i with
  | start => exact ⟨_, rfl, rfl⟩
  | discard b => exact ⟨b, rfl, if_neg (by simpa [WellFormed] using hwf)⟩
  | _ => cases hc

theorem exists_decodeStop_eq (hc : i.context = .peStop) (hwf : WellFormed i = true) :
    ∃ b, encode i = [b] ∧ decodeStop b = i := by
  cases i with
  | stop => exact ⟨_, rfl, rfl⟩
  | stopBad b => exact ⟨b, rfl, if_neg (by simpa [WellFormed] using hwf)⟩
  | _ => cases hc

theorem exists_decodeAck_eq (hc : i.context = .hdAck) (hwf : WellFormed i = true) :
    ∃ b, encode i = [b] ∧ decodeAck b = i := by
  cases i with
  | ack | nack => exact ⟨_, rfl, rfl⟩
  | nackOther b =>
    obtain ⟨hack, hnack⟩ : b ≠ 0x0F ∧ b ≠ 0xF0 := by simpa [WellFormed] using hwf
    exact ⟨b, rfl, by rw [decodeAck, if_neg hack, if_neg hnack]⟩
  | _ => cases hc

end

/-- Settles O2: in each context the instruction's bytes are ones its decoder reads as it. -/
theorem decodeOfEncode : Obligations.DecodeOfEncode := by
  intro i rest hwf
  cases hc : i.context with
  | peHeader =>
    obtain ⟨id, len, mode, rsv, hbytes, hi⟩ := exists_decodeHeader_eq hc hwf
    exact decode_peHeader_eq_ok.2 ⟨id, len, mode, rsv, by rw [hbytes], hi⟩
  | hdFrameStore =>
    obtain ⟨start, id, len, mode, rsv, hbytes, hi⟩ := exists_decodeStore_eq hc hwf
    exact decode_hdFrameStore_eq_ok.2 ⟨start, id, len, mode, rsv, by rw [hbytes], hi⟩
  | peWaitStart =>
    obtain ⟨b, hbytes, hi⟩ := exists_decodeWaitStart_eq hc hwf
    exact decode_peWaitStart_eq_ok.2 ⟨b, by rw [hbytes]; rfl, hi⟩
  | peStop =>
    obtain ⟨b, hbytes, hi⟩ := exists_decodeStop_eq hc hwf
    exact decode_peStop_eq_ok.2 ⟨b, by rw [hbytes]; rfl, hi⟩
  | hdAck =>
    obtain ⟨b, hbytes, hi⟩ := exists_decodeAck_eq hc hwf
    exact decode_hdAck_eq_ok.2 ⟨b, by rw [hbytes]; rfl, hi⟩

/-- Settles O3, by what the decoder of each context reads. -/
theorem encodeOfDecode : Obligations.EncodeOfDecode := by
  intro c bs rest i h
  obtain ⟨read, henc, hbs⟩ := encodes_of_decode h
  exact ⟨henc.wellFormed, henc.context, by rw [henc.bytes, hbs]⟩

/-! ### The opcode table read alone (R99) -/

section
variable {start id len mode : Byte} {rsv : Rsv}

/-- Two concatenations of equal widths are equal part by part. -/
theorem append_eq_append_iff {v w : Nat} {x x' : BitVec v} {y y' : BitVec w} :
    x ++ y = x' ++ y' ↔ x = x' ∧ y = y' := by
  refine ⟨fun h => ⟨?_, ?_⟩, fun ⟨hx, hy⟩ => by rw [hx, hy]⟩
  · simpa only [BitVec.extractLsb'_append_eq_left] using congrArg (BitVec.extractLsb' w v) h
  · simpa only [BitVec.extractLsb'_append_eq_right] using congrArg (BitVec.extractLsb' 0 w) h

section
variable {start' id' len' mode' : Byte} {rsv' : Rsv}

/-- Header words are masked byte by byte. -/
theorem headerWord_and : headerWord start id len mode rsv &&& headerWord start' id' len' mode' rsv' =
    headerWord (start &&& start') (id &&& id') (len &&& len') (mode &&& mode')
      ⟨rsv.r0 &&& rsv'.r0, rsv.r1 &&& rsv'.r1, rsv.r2 &&& rsv'.r2, rsv.r3 &&& rsv'.r3⟩ := by
  simp only [headerWord, ← BitVec.and_append]

/-- Header words are equal byte by byte; the width is written as the sum the concatenation has. -/
theorem headerWord_inj : headerWord start id len mode rsv = headerWord start' id' len' mode' rsv' ↔
    start = start' ∧ id = id' ∧ len = len' ∧ mode = mode' ∧
      rsv.r0 = rsv'.r0 ∧ rsv.r1 = rsv'.r1 ∧ rsv.r2 = rsv'.r2 ∧ rsv.r3 = rsv'.r3 := by
  change (_ : BitVec (8 + 8 + 8 + 8 + 8 + 8 + 8 + 8)) = _ ↔ _
  simp only [headerWord, append_eq_append_iff, and_assoc]

end

/-! A mask byte keeps the whole byte or leaves it free. -/

theorem byte_and_ff (b : Byte) : b &&& 0xFF = b := BitVec.and_allOnes

theorem byte_and_zero (b : Byte) : b &&& 0x00 = 0x00 := BitVec.and_zero

/-- The masks and patterns of the header rows: the header word of these bytes, the bytes no header row compares being zero. -/
def tableWord (start id mode : Byte) : BitVec 64 := headerWord start id 0 mode ⟨0, 0, 0, 0⟩

/-- A header row's mask and pattern are compared byte by byte (R11, R99). -/
theorem headerWord_matches_iff (start id len mode : Byte) (rsv : Rsv) (ms mi mm ps pi pm : Byte) :
    headerWord start id len mode rsv &&& tableWord ms mi mm = tableWord ps pi pm ↔
      start &&& ms = ps ∧ id &&& mi = pi ∧ mode &&& mm = pm := by
  simp only [tableWord, headerWord_and, headerWord_inj, byte_and_zero, and_true, true_and]

/-- A token row's mask and pattern compare the low byte alone (R99). -/
theorem tokenWord_matches_iff (b p : Byte) : b.setWidth 64 &&& 0xFF = p.setWidth 64 ↔ b = p := by
  have hmask : (0xFF : BitVec 64) = (0xFF : Byte).setWidth 64 := rfl
  rw [hmask, ← BitVec.setWidth_and, byte_and_ff]
  refine ⟨fun h => ?_, congrArg _⟩
  simpa using congrArg (BitVec.setWidth 8) h

/-! The rows of one context, in the table's order. -/

theorem firstRow_peHeader (h : BitVec 64) : firstRow .peHeader h =
    if h &&& 0xFFFC00FF00000000 = 0xFE00000100000000 then some 0
    else if h &&& 0xFFFF00FF00000000 = 0xFE00000200000000 then some 1
    else if h &&& 0xFFFF00FF00000000 = 0xFE01000200000000 then some 2
    else if h &&& 0xFFFF00FF00000000 = 0xFE02000200000000 then some 3
    else if h &&& 0xFFFF00FF00000000 = 0xFE03000200000000 then some 4
    else if h &&& 0xFFFC000000000000 = 0xFE00000000000000 then some 5
    else if h &&& 0xFF00000000000000 = 0xFE00000000000000 then some 6 else none := by
  simp [firstRow, opcodeTable, List.findIdx?_cons, TableRow.selects, apply_ite (Option.map _)]

theorem firstRow_hdFrameStore (h : BitVec 64) : firstRow .hdFrameStore h =
    if h &&& 0x000000FF00000000 = 0x0000000100000000 then some 14 else some 15 := by
  simp [firstRow, opcodeTable, List.findIdx?_cons, TableRow.selects, apply_ite (Option.map _)]

theorem firstRow_peWaitStart (h : BitVec 64) : firstRow .peWaitStart h =
    if h &&& 0xFF = 0xFE then some 7 else some 8 := by
  simp [firstRow, opcodeTable, List.findIdx?_cons, TableRow.selects, apply_ite (Option.map _)]

theorem firstRow_peStop (h : BitVec 64) : firstRow .peStop h =
    if h &&& 0xFF = 0x01 then some 9 else some 10 := by
  simp [firstRow, opcodeTable, List.findIdx?_cons, TableRow.selects, apply_ite (Option.map _)]

theorem firstRow_hdAck (h : BitVec 64) : firstRow .hdAck h =
    if h &&& 0xFF = 0x0F then some 11 else if h &&& 0xFF = 0xF0 then some 12 else some 13 := by
  simp [firstRow, opcodeTable, List.findIdx?_cons, TableRow.selects, apply_ite (Option.map _)]

/-! The decoders' rows, by the same comparisons (R91 to R93). -/

theorem row_decodeHeader : (decodeHeader id len mode rsv).row =
    if id &&& 0xFC = 0x00 ∧ mode = 0x01 then 0
    else if id = 0x00 ∧ mode = 0x02 then 1
    else if id = 0x01 ∧ mode = 0x02 then 2
    else if id = 0x02 ∧ mode = 0x02 then 3
    else if id = 0x03 ∧ mode = 0x02 then 4
    else if id &&& 0xFC = 0x00 then 5
    else 6 := by
  by_cases hboard : id &&& 0xFC = 0x00
  · by_cases h1 : mode = 0x01
    · subst h1
      rw [decodeHeader_of_read hboard, if_pos ⟨hboard, rfl⟩, Instr.row]
    · by_cases h2 : mode = 0x02
      · subst h2
        rcases (goodBoard_cases id hboard).2 with rfl | rfl | rfl | rfl <;> rfl
      · rw [decodeHeader_of_badMode hboard h1 h2]
        simp only [h1, h2, hboard, and_false, if_false, if_true, Instr.row]
  · have hne : ∀ dev : Byte, dev &&& 0xFC = 0x00 → id ≠ dev := fun dev hdev hid => hboard (hid ▸ hdev)
    rw [decodeHeader_of_badBoard hboard]
    simp only [hboard, hne 0x00 rfl, hne 0x01 rfl, hne 0x02 rfl, hne 0x03 rfl, false_and, if_false, Instr.row]

/-- The row of the table that a header behind a start marker has, each mask and pattern read byte by byte. -/
theorem firstRow_header :
    firstRow .peHeader (headerWord 0xFE id len mode rsv) = some (decodeHeader id len mode rsv).row := by
  have hread := headerWord_matches_iff 0xFE id len mode rsv 0xFF 0xFC 0xFF 0xFE 0x00 0x01
  have hwrite := fun dev => headerWord_matches_iff 0xFE id len mode rsv 0xFF 0xFF 0xFF 0xFE dev 0x02
  have hboard := headerWord_matches_iff 0xFE id len mode rsv 0xFF 0xFC 0x00 0xFE 0x00 0x00
  have hany := headerWord_matches_iff 0xFE id len mode rsv 0xFF 0x00 0x00 0xFE 0x00 0x00
  simp only [byte_and_ff, byte_and_zero, and_true, true_and, iff_true] at hread hwrite hboard hany
  rw [firstRow_peHeader, row_decodeHeader]
  simp only [apply_ite some]
  refine ite_congr (propext hread) (fun _ => rfl) fun _ => ?_
  refine ite_congr (propext (hwrite 0x00)) (fun _ => rfl) fun _ => ?_
  refine ite_congr (propext (hwrite 0x01)) (fun _ => rfl) fun _ => ?_
  refine ite_congr (propext (hwrite 0x02)) (fun _ => rfl) fun _ => ?_
  refine ite_congr (propext (hwrite 0x03)) (fun _ => rfl) fun _ => ?_
  refine ite_congr (propext hboard) (fun _ => rfl) fun _ => ?_
  exact if_pos hany

/-- The row of a stored header: of its eight bytes the mode alone is compared. -/
theorem firstRow_store :
    firstRow .hdFrameStore (headerWord start id len mode rsv) = some (decodeStore start id len mode rsv).row := by
  have hread := headerWord_matches_iff start id len mode rsv 0x00 0x00 0xFF 0x00 0x00 0x01
  simp only [byte_and_ff, byte_and_zero, true_and] at hread
  rw [firstRow_hdFrameStore, decodeStore, apply_ite Instr.row, apply_ite some]
  exact ite_congr (propext hread) (fun _ => rfl) fun _ => rfl

theorem firstRow_waitStart (b : Byte) : firstRow .peWaitStart (b.setWidth 64) = some (decodeWaitStart b).row := by
  rw [firstRow_peWaitStart, decodeWaitStart, apply_ite Instr.row, apply_ite some]
  exact ite_congr (propext (tokenWord_matches_iff b 0xFE)) (fun _ => rfl) fun _ => rfl

theorem firstRow_stop (b : Byte) : firstRow .peStop (b.setWidth 64) = some (decodeStop b).row := by
  rw [firstRow_peStop, decodeStop, apply_ite Instr.row, apply_ite some]
  exact ite_congr (propext (tokenWord_matches_iff b 0x01)) (fun _ => rfl) fun _ => rfl

theorem firstRow_ack (b : Byte) : firstRow .hdAck (b.setWidth 64) = some (decodeAck b).row := by
  rw [firstRow_hdAck, decodeAck]
  simp only [apply_ite Instr.row, apply_ite some]
  exact ite_congr (propext (tokenWord_matches_iff b 0x0F)) (fun _ => rfl) fun _ =>
    ite_congr (propext (tokenWord_matches_iff b 0xF0)) (fun _ => rfl) fun _ => rfl

end

/-- Settles O4, context by context: the table's masks and patterns make the decoder's comparisons in the decoder's order. -/
theorem tableAloneReproducesDecoder : Obligations.TableAloneReproducesDecoder :=
  ⟨fun _ _ _ _ => firstRow_header, fun _ _ _ _ _ => firstRow_store, firstRow_waitStart, firstRow_stop, firstRow_ack⟩

/-! ### What the peripheral's tokens leave unchanged (R92, R153, R163, R164, R170) -/

/-- A token takes the head of `h2p` and changes only the control state, the counter, the status port and the trace. -/
def TokenFrame (s t : State) : Prop :=
  ∃ st c e tr, t = { s with
    h2p := s.h2p.tail, trace := tr, pe := { s.pe with state := st, cnt := c, evt := e } }

section
variable {s t : State} {b : Byte} {i : Instr}

/-- A row that takes a byte and then changes only what a token may change keeps to the frame. -/
theorem peTake_tokenFrame {k : State → Out} (h : peTake b k s = .next t)
    (hk : ∀ u, ∃ st c e tr, k u = .next { u with trace := tr, pe := { u.pe with state := st, cnt := c, evt := e } }) :
    TokenFrame s t := by
  rcases peTake_eq_next.1 h with ⟨b', q, hq, h⟩ | ⟨hq, rfl⟩
  · obtain ⟨st, c, e, tr, hnext⟩ := hk ((s.setH2p q).log .pe (.rx b))
    rw [hnext] at h
    cases h
    exact ⟨st, c, e, tr, by rw [hq]; rfl⟩
  · exact ⟨s.pe.state, s.pe.cnt, s.pe.evt, s.trace, by rw [hq, List.tail_nil, ← hq]⟩

theorem execStart_frame (h : execStart s = .next t) : TokenFrame s t := by
  unfold execStart at h
  split at h
  · exact peTake_tokenFrame h fun u => ⟨.readHeader, some 1, u.pe.evt, u.trace, rfl⟩
  · cases h

theorem execDiscard_frame (h : execDiscard b s = .next t) : TokenFrame s t := by
  unfold execDiscard at h
  split at h
  · exact peTake_tokenFrame h fun u => ⟨u.pe.state, u.pe.cnt, u.pe.evt, u.trace, rfl⟩
  · cases h

theorem execStop_frame (h : execStop s = .next t) : TokenFrame s t := by
  unfold execStop at h
  split at h
  · exact peTake_tokenFrame h fun u => ⟨.wFinalAck, none, u.pe.evt, u.trace, rfl⟩
  · exact peTake_tokenFrame h fun u => ⟨.rFinalAck, none, u.pe.evt, u.trace, rfl⟩
  · cases h

theorem execStopBad_frame (h : execStopBad b s = .next t) : TokenFrame s t := by
  have hraise : ∀ u : State, ∃ st c e tr, (.next (u.raise .stopByteError b) : Out) =
      .next { u with trace := tr, pe := { u.pe with state := st, cnt := c, evt := e } } :=
    fun u => ⟨.sendNack, none, some .stopByteError, u.trace ++ [(.pe, .err .stopByteError (some b))], rfl⟩
  unfold execStopBad at h
  split at h
  · exact peTake_tokenFrame h hraise
  · exact peTake_tokenFrame h hraise
  · cases h

/-- Every token of the peripheral keeps to the frame. -/
theorem exec_token_frame (hi : i.context = .peWaitStart ∨ i.context = .peStop) (h : exec i s = .next t) :
    TokenFrame s t := by
  cases i
  case start => exact execStart_frame h
  case discard => exact execDiscard_frame h
  case stop => exact execStop_frame h
  case stopBad => exact execStopBad_frame h
  all_goals simp [Instr.context] at hi

end

/-- Settles O27: what a token changes is none of these fields. -/
theorem peripheralTokenFrame : Obligations.PeripheralTokenFrame := by
  intro i s t hi h
  obtain ⟨st, c, e, tr, rfl⟩ := exec_token_frame hi h
  exact ⟨rfl, rfl, rfl, rfl, rfl, rfl, rfl, rfl, rfl, rfl, rfl, rfl, rfl, rfl, rfl, rfl, rfl, rfl, rfl, rfl, fun _ => rfl⟩

/-! ### A step executes the instruction its engine's position decodes (R92, R93, R99) -/

section
variable {s : State} {ms : List Move} {i : Instr}

/-- A scripted move of the peripheral executes what the peripheral fetches, its pulses dropped (log 1, log 9). -/
theorem step_of_peFetch (hms : s.script = .run .pe :: ms) (hf : peFetch s = .instr i) :
    step s = exec i { s with script := ms, pe := { s.pe with evt := none, bufRelease := false } } := by
  have hf' : peFetch (s.setScript ms) = .instr i := hf
  simp only [step, hms, moveStep, agentStep, hf']
  rfl

/-- A scripted move of the host executes what the host fetches, its pulse dropped (log 1, log 9). -/
theorem step_of_hdFetch (hms : s.script = .run .hd :: ms) (hf : hdFetch s = .instr i) :
    step s = exec i { s with script := ms, hd := { s.hd with rpt := none } } := by
  have hf' : hdFetch (s.setScript ms) = .instr i := hf
  simp only [step, hms, moveStep, agentStep, hf']
  rfl

/-- Away from the positions that read a byte the peripheral fetches the header it holds. -/
theorem peFetch_of_header (hs : s.pe.state ∉ [PeState.waitStart, .readHeader, .wStop, .rStop, .halted]) :
    peFetch s = s.pe.header := by
  unfold peFetch
  cases hst : s.pe.state
  case waitStart | readHeader | wStop | rStop | halted => simp [hst] at hs
  all_goals rfl

/-- Away from the acknowledgment positions the host, once it has its trigger, fetches the header it has stored. -/
theorem hdFetch_of_stored (hs : s.hd.state = .idle ∧ s.opStart = true ∨
    s.hd.state = .retryPrompt ∧ s.opRetry = true ∨
    s.hd.state ∈ [HdState.sendHeader, .wSendPayload, .wSendStop, .rRecvPayload, .rSendStop]) :
    hdFetch s = s.hd.stored := by
  rcases hs with ⟨hs, ho⟩ | ⟨hs, ho⟩ | hs
  · simp only [hdFetch, hs, ho, if_true]
  · simp only [hdFetch, hs, ho, if_true]
  · unfold hdFetch
    cases hst : s.hd.state
    case sendHeader | wSendPayload | wSendStop | rRecvPayload | rSendStop => rfl
    all_goals simp [hst] at hs

/-- The stored header, read as eight bytes, is what the driver holds. -/
theorem Hd.stored_eq {h : Hd} {bs rest : List Byte} (hbs : h.hfs.readSeq 0 8 = some bs)
    (hd : decode .hdFrameStore bs = .ok i rest) : h.stored = .instr i := by
  obtain ⟨start, id, len, mode, rsv, rfl, rfl⟩ := decode_hdFrameStore_eq_ok.1 hd
  have hrest : rest = [] := by simpa [headerBytes] using Memory.readSeq_length hbs
  subst hrest
  simp only [headerBytes, List.append_nil] at hbs
  simp only [Hd.stored, hbs]

end

/-- Settles O8: at each position what the peripheral fetches is what that position's decoder reads. -/
theorem peripheralStepRunsDecoded : Obligations.PeripheralStepRunsDecoded := by
  intro s ms i rest hms hread
  refine step_of_peFetch hms ?_
  rcases hread with ⟨hs, hd⟩ | ⟨hs, hd⟩ | ⟨hs, id, len, mode, r0, r1, r2, r3, h1, h2, h3, h4, h5, h6, h7, hd⟩
  · obtain ⟨b, hq, rfl⟩ := decode_peWaitStart_eq_ok.1 hd
    simp only [peFetch, hs, hq, tokenAt]
  · obtain ⟨b, hq, rfl⟩ := decode_peStop_eq_ok.1 hd
    rcases hs with hs | hs <;> simp only [peFetch, hs, hq, tokenAt]
  · cases hd
    rw [peFetch_of_header hs]
    simp only [Pe.header, h1, h2, h3, h4, h5, h6, h7]

/-- Settles O9: at each position what the host fetches is what that position's decoder reads. -/
theorem hostStepRunsDecoded : Obligations.HostStepRunsDecoded := by
  intro s ms i rest hms hread
  refine step_of_hdFetch hms ?_
  rcases hread with ⟨hs, hd⟩ | ⟨hs, bs, hbs, hd⟩
  · obtain ⟨b, hq, rfl⟩ := decode_hdAck_eq_ok.1 hd
    rcases hs with hs | hs | hs <;> simp only [hdFetch, hs, hq, tokenAt]
  · rw [hdFetch_of_stored hs]
    exact Hd.stored_eq hbs hd

/-! ### No step leaves an instruction's position (R92; log 15) -/

/-- An outcome other than the fault of an instruction out of its position. -/
def InPosition (o : Out) : Prop := o ≠ .fault .outOfPosition

section
variable {s : State} {id len mode b : Byte} {c : Cnt} {k : State → Out} {more done : Out}

theorem InPosition.next (t : State) : InPosition (.next t) := nofun

theorem need_inPosition {α : Type} {o : Option α} {f : Fault} {k : α → Out} (hf : f ≠ .outOfPosition)
    (hk : ∀ a, InPosition (k a)) : InPosition (need o f k) := by
  intro h
  rcases need_eq_fault.1 h with ⟨-, h⟩ | ⟨a, -, h⟩
  · exact hf h
  · exact hk a h

theorem peSend_inPosition (hk : ∀ u, InPosition (k u)) : InPosition (peSend b k s) :=
  fun h => hk _ (peSend_eq_fault.1 h).2

theorem hdSend_inPosition (hk : ∀ u, InPosition (k u)) : InPosition (hdSend b k s) :=
  fun h => hk _ (hdSend_eq_fault.1 h).2

theorem peRecv_inPosition {k : Byte → State → Out} (hk : ∀ b u, InPosition (k b u)) : InPosition (peRecv k s) := by
  intro h
  obtain ⟨b, q, -, h⟩ := peRecv_eq_fault.1 h
  exact hk b _ h

theorem hdRecv_inPosition {k : Byte → State → Out} (hk : ∀ b u, InPosition (k b u)) : InPosition (hdRecv k s) := by
  intro h
  obtain ⟨b, q, -, h⟩ := hdRecv_eq_fault.1 h
  exact hk b _ h

theorem hdTakeAck_inPosition (hk : ∀ u, InPosition (k u)) : InPosition (hdTakeAck b k s) := by
  intro h
  obtain ⟨b', q, -, h⟩ := hdTakeAck_eq_fault.1 h
  exact hk _ h

/-- A row that counts up to the payload length has no other fault than a counter past it. -/
theorem Cnt.countRow_inPosition (hmore : InPosition more) (hdone : InPosition done) :
    InPosition (if c < Cnt.ofByte len then more else if c = Cnt.ofByte len then done else .fault .counterOutOfRange) := by
  split
  · exact hmore
  · split
    · exact hdone
    · nofun

theorem rowReadHeader_inPosition : InPosition (rowReadHeader s) := by
  refine need_inPosition (by decide) fun c => ?_
  split
  · refine peRecv_inPosition fun b u => ?_
    simp only
    split <;> exact .next _
  · nofun

/-- In a state that reads a header, the header has a row. -/
theorem peHeaderRow_inPosition (hs : s.pe.state ∉ [PeState.waitStart, .readHeader, .wStop, .rStop, .halted]) :
    InPosition (peHeaderRow id len mode s) := by
  unfold peHeaderRow
  cases hst : s.pe.state <;> dsimp only
  case waitStart | readHeader | wStop | rStop | halted => simp [hst] at hs
  case validateBoard => exact rowValidateBoard_ne_fault
  case validateMode => exact rowValidateMode_ne_fault
  case allocateBuffer => exact rowAllocate_ne_fault
  case sendNack => exact rowSendNack_ne_fault
  case wHdrAck => exact rowWHdrAck_ne_fault
  case wPayload =>
    exact need_inPosition (by decide) fun c =>
      Cnt.countRow_inPosition (peRecv_inPosition fun b u => .next _) (.next _)
  case wFinalAck => exact rowWFinalAck_ne_fault
  case wDispatch =>
    unfold rowWDispatch
    split
    · exact .next s
    · exact need_inPosition (by decide) fun bytes => .next _
  case rHdrAck => exact rowRHdrAck_ne_fault
  case rFill => exact rowRFill_ne_fault
  case rStream =>
    exact need_inPosition (by decide) fun c =>
      Cnt.countRow_inPosition (need_inPosition (by decide) fun b => peSend_inPosition fun u => .next _) (.next _)
  case rFinalAck => exact rowRFinalAck_ne_fault

/-- The header the registers hold, if they hold one, is executed where headers are. -/
theorem runFetched_header_inPosition (p : Pe)
    (hs : s.pe.state ∉ [PeState.waitStart, .readHeader, .wStop, .rStop, .halted]) :
    InPosition (runFetched p.header s) := by
  unfold Pe.header
  split
  · rw [runFetched, exec_decodeHeader]
    exact peHeaderRow_inPosition hs
  · nofun

theorem agentStep_pe_inPosition : InPosition (agentStep .pe s) := by
  have hst : s.dropPePulses.pe.state = s.pe.state := rfl
  by_cases hs : s.pe.state ∈ [PeState.waitStart, .readHeader, .wStop, .rStop, .halted]
  · simp only [List.mem_cons, List.not_mem_nil, or_false] at hs
    rcases hs with hs | hs | hs | hs | hs <;> simp only [agentStep, peFetch, hs] <;> rw [hs] at hst
    · exact runFetched_tokenAt_ne_fault fun b => exec_decodeWaitStart_ne_fault b hst
    · exact rowReadHeader_inPosition
    · exact runFetched_tokenAt_ne_fault fun b => exec_decodeStop_ne_fault b (.inl hst)
    · exact runFetched_tokenAt_ne_fault fun b => exec_decodeStop_ne_fault b (.inr hst)
    · exact .next _
  · rw [agentStep, peFetch_of_header hs]
    exact runFetched_header_inPosition s.pe hs

/-- In a state that reads the store, a stored frame has a row. -/
theorem hdStoreRow_inPosition (hs : s.hd.state ∉ [HdState.waitHdrAck, .wWaitFinal, .rWaitFinal, .fatal]) :
    InPosition (hdStoreRow len s) := by
  unfold hdStoreRow
  cases hst : s.hd.state <;> dsimp only
  case waitHdrAck | wWaitFinal | rWaitFinal | fatal => simp [hst] at hs
  case idle => exact rowIdle_ne_fault
  case retryPrompt => exact rowRetryPrompt_ne_fault
  case sendHeader =>
    refine need_inPosition (by decide) fun c => ?_
    split
    · refine need_inPosition (by decide) fun b => hdSend_inPosition fun u => ?_
      split <;> exact .next _
    · nofun
  case wSendPayload =>
    exact need_inPosition (by decide) fun c =>
      Cnt.countRow_inPosition (need_inPosition (by decide) fun b => hdSend_inPosition fun u => .next _) (.next _)
  case wSendStop | rSendStop =>
    exact need_inPosition (by decide) fun b => hdSend_inPosition fun u => .next _
  case rRecvPayload =>
    exact need_inPosition (by decide) fun c =>
      Cnt.countRow_inPosition (hdRecv_inPosition fun b u => .next _) (.next _)

theorem runFetched_stored_inPosition (h : Hd) (hs : s.hd.state ∉ [HdState.waitHdrAck, .wWaitFinal, .rWaitFinal, .fatal]) :
    InPosition (runFetched h.stored s) := by
  unfold Hd.stored
  split
  · rw [runFetched, exec_decodeStore]
    exact hdStoreRow_inPosition hs
  · nofun

/-- At an acknowledgment position every byte has a row. -/
theorem hdAckRow_inPosition (hs : s.hd.state = .waitHdrAck ∨ s.hd.state = .wWaitFinal ∨ s.hd.state = .rWaitFinal) :
    InPosition (hdAckRow b s) := by
  rcases hs with hs | hs
  · simp only [hdAckRow, hs]
    split
    · exact need_inPosition (by decide) fun mode => hdTakeAck_inPosition fun u => .next _
    · exact hdTakeAck_inPosition fun u => .next _
  · exact hdAckRow_final_ne_fault b hs

theorem agentStep_hd_inPosition : InPosition (agentStep .hd s) := by
  have hst : s.dropHdPulses.hd.state = s.hd.state := rfl
  simp only [agentStep, hdFetch]
  cases hs : s.hd.state <;> dsimp only <;> rw [hs] at hst
  case waitHdrAck => exact runFetched_ack_ne_fault fun b => hdAckRow_inPosition (.inl hst)
  case wWaitFinal => exact runFetched_ack_ne_fault fun b => hdAckRow_inPosition (.inr (.inl hst))
  case rWaitFinal => exact runFetched_ack_ne_fault fun b => hdAckRow_inPosition (.inr (.inr hst))
  case fatal => exact .next _
  case idle | retryPrompt =>
    split
    · exact runFetched_stored_inPosition s.hd (by simp [hs])
    · exact .next _
  all_goals exact runFetched_stored_inPosition s.hd (by simp [hs])

end

/-- Settles O39: each engine runs what it fetched where that has a row, and the environment never faults. -/
theorem stepReadsAtPosition : Obligations.StepReadsAtPosition := by
  intro s
  rcases step_cases s with ⟨e, ms, -, hstep⟩ | ⟨a, hstep, -⟩ <;> rw [hstep]
  · exact envStep_ne_fault e _ .outOfPosition
  · cases a with
    | pe => exact agentStep_pe_inPosition
    | hd => exact agentStep_hd_inPosition

end Sys2Proof.Machine

/-! ## Family `40_framecodec`: the codec's round trip, the validation predicates, the registry's map -/

namespace Sys2Proof.Machine

/-! ### The header codec (R112, R116) -/

/-- What is decoded behind the start marker has the marker as its start byte, whatever start byte was encoded. -/
theorem codecDecode_codecEncode_tail (h : Header) (rest : List Byte) :
    codecDecode ((codecEncode h).tail ++ rest) = .header { h with start := 0xFE } rest := rfl

/-- Every eight bytes are the encoding of a header. -/
theorem exists_codecEncode_eq : ∀ bs : List Byte, bs.length = 8 → ∃ h, codecEncode h = bs
  | [start, id, len, mode, r0, r1, r2, r3], _ => ⟨⟨start, id, len, mode, ⟨r0, r1, r2, r3⟩⟩, rfl⟩

/-- Settles O5: the encoded start byte is the one the decoder supplies, and eight bytes are always an encoding. -/
theorem codecRoundTrip : Obligations.CodecRoundTrip := by
  have decode_tail {h : Header} (rest : List Byte) (hstart : h.start = 0xFE) :
      codecDecode ((codecEncode h).tail ++ rest) = .header h rest := by
    rw [codecDecode_codecEncode_tail, ← hstart]
  constructor
  · intro h rest hstart
    exact ⟨congrArg some hstart, decode_tail rest hstart⟩
  · intro bs hlen hhead
    obtain ⟨h, rfl⟩ := exists_codecEncode_eq bs hlen
    have hstart : h.start = 0xFE := Option.some.inj hhead
    exact ⟨h, by simpa using decode_tail [] hstart, rfl⟩

/-! ### The validation predicates (R113 to R115) -/

theorem validateBoard_iff {id : Byte} :
    validateBoard id = true ↔ id = 0x00 ∨ id = 0x01 ∨ id = 0x02 ∨ id = 0x03 := by
  constructor
  · intro h
    exact (goodBoard_cases id (beq_iff_eq.1 h)).2
  · rintro (rfl | rfl | rfl | rfl) <;> rfl

theorem validateMode_iff {m : Byte} : validateMode m = true ↔ m = 0x01 ∨ m = 0x02 := by
  rw [validateMode, Bool.or_eq_true, beq_iff_eq, beq_iff_eq, Config.modeRead, Config.modeWrite]

theorem validateStop_iff {b : Byte} : validateStop b = true ↔ b = 0x01 := beq_iff_eq

/-- Settles O6: the six board bits leave four identifiers; mode and stop byte are compared with constants. -/
theorem validationPredicates : Obligations.ValidationPredicates :=
  ⟨fun _ => validateBoard_iff, fun _ => validateMode_iff, fun _ => validateStop_iff⟩

/-! ### The registry (R118, R130 to R132) -/

theorem selectWrite_led : selectWrite 0 = .led := if_pos rfl

theorem selectWrite_of_ne_led {d : DevId} (h : d ≠ 0) : selectWrite d = .lcd := if_neg h

theorem selectRead_eq (d : DevId) : selectRead d = .adc := rfl

theorem deviceOf_eq (id : Byte) : deviceOf id = (id &&& 0x03).setWidth 2 := rfl

/-- Settles O7: device 0 alone is the LED; a Read and the device-id are as R132 and R118 define them. -/
theorem registryMap : Obligations.RegistryMap :=
  ⟨selectWrite_led, selectWrite_of_ne_led (by decide), selectWrite_of_ne_led (by decide),
    selectWrite_of_ne_led (by decide), selectRead_eq, deviceOf_eq⟩

end Sys2Proof.Machine

/-! ## Family `41_device_registry`: capabilities are called only where the flow and the frame say (R130 to R139, R166, R168) -/

namespace Sys2Proof.Machine

/-- From `s` the LED or the LCD may be called: the frame waits for dispatch, it names this device, and the bytes are its whole
payload (R130, R131, R138, R166). -/
def State.WriteCallAllowed (s : State) (k : Capability) (d : DevId) (bytes : List Byte) : Prop :=
  s.pe.state = .wDispatch ∧ k = (if d = 0 then .led else .lcd) ∧ s.pe.id.map deviceOf = some d ∧
    ∃ len, s.pe.len = some len ∧ s.pe.buf.readSeq 0 len.toNat = some bytes

/-- From `s` to `t` the ADC may be called: the frame waits to be filled, it names this device and length, and just the samples
taken from the ADC fill the buffer (R132, R135, R139, R168). -/
def State.ReadCallAllowed (s t : State) (k : Capability) (d : DevId) (n : Byte) (bytes : List Byte) : Prop :=
  s.pe.state = .rFill ∧ k = .adc ∧ s.pe.id.map deviceOf = some d ∧ s.pe.len = some n ∧ bytes.length = n.toNat ∧
    s.adcQ = bytes ++ t.adcQ ∧ t.pe.buf = s.pe.buf.writeSeq 0 bytes

/-- From `s` to `t` the trace only grows, and each call among its new events is allowed. -/
def State.CallsAllowed (s t : State) : Prop :=
  ∃ new, t.trace = s.trace ++ new ∧
    (∀ k d bytes, (.pe, .devw k d bytes) ∈ new → s.WriteCallAllowed k d bytes) ∧
    (∀ k d n bytes, (.pe, .devr k d n bytes) ∈ new → s.ReadCallAllowed t k d n bytes)

section
variable {s t : State}

/-- Replacing a queue of the channel records no event. -/
@[simp] theorem State.setQueue_trace (d : Dir) (q : List Byte) (s : State) : (s.setQueue d q).trace = s.trace := by
  cases d <;> rfl

/-- The only rows of the peripheral that record a call are T11, by the capability R130 selects, and T13. -/
theorem PeRow.callsAllowed (h : PeRow s t) : s.CallsAllowed t := by
  cases h with
  | dispatch id len n bytes hs hid hl hn hb =>
    refine ⟨_, rfl, fun k d bs hx => ?_, by simp⟩
    obtain ⟨rfl, rfl, rfl⟩ : k = selectWrite (deviceOf id) ∧ d = deviceOf id ∧ bs = bytes := by simpa using hx
    exact ⟨hs, rfl, congrArg (Option.map deviceOf) hid, len, hl, hb⟩
  | fill id len samples q hs hid hl hq hn =>
    refine ⟨_, rfl, by simp, fun k d n bs hx => ?_⟩
    obtain ⟨rfl, rfl, rfl, rfl⟩ : k = .adc ∧ d = deviceOf id ∧ n = len ∧ bs = samples := by simpa using hx
    exact ⟨hs, rfl, congrArg (Option.map deviceOf) hid, hl, hn, hq, rfl⟩
  | _ => simp [State.CallsAllowed]

/-- The host has no capability to call, so its rows record no call. -/
theorem HdRow.callsAllowed (h : HdRow s t) : s.CallsAllowed t := by
  cases h <;> simp [State.CallsAllowed]

/-- The environment only supplies what calls wait for (log 7), so its moves record no call. -/
theorem EnvRow.callsAllowed {e : EnvMove} (h : EnvRow s e t) : s.CallsAllowed t := by
  cases h <;> simp [State.CallsAllowed]

/-- The choice of a move touches nothing a call depends on. -/
theorem State.CallsAllowed.of_afterChoice (h : s.afterChoice.CallsAllowed t) : s.CallsAllowed t := by
  simpa [State.CallsAllowed, State.WriteCallAllowed, State.ReadCallAllowed] using h

end

/-- Settles O43: the engines' rows and the environment's moves, of which only T11 and T13 record a call. -/
theorem capabilityCallsOnlyWhereAllowed : Obligations.CapabilityCallsOnlyWhereAllowed := by
  intro s t h
  refine State.CallsAllowed.of_afterChoice ?_
  rcases step_cases s with ⟨e, ms, -, hstep⟩ | ⟨a, hstep, -⟩ <;> rw [hstep] at h
  · exact (envRow_of_envStep h).callsAllowed
  · cases a with
    | pe => exact (peRow_of_agentStep h).callsAllowed
    | hd => exact (hdRow_of_agentStep h).callsAllowed

end Sys2Proof.Machine

/-! ## Family `42_peripheral_engine`: the rows of R151, one cause per header, the halted engines, whole frames -/

namespace Sys2Proof.Machine

/-! ### The row a header has in a state (R151, R156 to R159, R162) -/

section
variable {s : State} {i : Instr} {d : DevId} {id len mode : Byte}

theorem validateBoard_eq_false_iff : validateBoard id = false ↔ id &&& 0xFC ≠ 0x00 := beq_eq_false_iff_ne

theorem validateMode_eq_false_iff : validateMode mode = false ↔ mode ≠ 0x01 ∧ mode ≠ 0x02 := by
  rw [← Bool.not_eq_true, validateMode_iff, not_or]

/-- T3a. -/
theorem peHeaderRow_goodBoard (hs : s.pe.state = .validateBoard) (hv : validateBoard id = true) :
    peHeaderRow id len mode s = .next { s with pe := { s.pe with state := .validateMode, cnt := none } } := by
  simp only [peHeaderRow, hs, rowValidateBoard, hv, if_true]
  rfl

/-- T3b. -/
theorem peHeaderRow_badBoard (hs : s.pe.state = .validateBoard) (hv : validateBoard id = false) :
    peHeaderRow id len mode s = .next { s with
      trace := s.trace ++ [(.pe, .err .badBoardId (some id))],
      pe := { s.pe with state := .sendNack, cnt := none, evt := some .badBoardId } } := by
  simp only [peHeaderRow, hs, rowValidateBoard, hv, Bool.false_eq_true, if_false]
  rfl

/-- T4a. -/
theorem peHeaderRow_goodMode (hs : s.pe.state = .validateMode) (hv : validateMode mode = true) :
    peHeaderRow id len mode s = .next { s with pe := { s.pe with state := .allocateBuffer, cnt := none } } := by
  simp only [peHeaderRow, hs, rowValidateMode, hv, if_true]
  rfl

/-- T4b. -/
theorem peHeaderRow_badMode (hs : s.pe.state = .validateMode) (hv : validateMode mode = false) :
    peHeaderRow id len mode s = .next { s with
      trace := s.trace ++ [(.pe, .err .badMode (some mode))],
      pe := { s.pe with state := .sendNack, cnt := none, evt := some .badMode } } := by
  simp only [peHeaderRow, hs, rowValidateMode, hv, Bool.false_eq_true, if_false]
  rfl

theorem readFrame_of_writeFrame (h : writeFrame i = some (d, len)) : readFrame i = none := by
  cases i with
  | readAdc => cases h
  | _ => rfl

/-- A Write or Read instruction is a header that passes both checks, with its own length and flow. -/
theorem exec_of_goodHeader (h : writeFrame i = some (d, len) ∨ readFrame i = some (d, len)) :
    ∃ id mode, validateBoard id = true ∧ validateMode mode = true ∧
      (mode = Config.modeRead ↔ (readFrame i).isSome = true) ∧ ∀ s, exec i s = peHeaderRow id len mode s := by
  rcases h with h | h
  · obtain ⟨id, -, hv, hexec⟩ := exec_of_writeFrame h
    have hread : ¬(readFrame i).isSome = true := by simp [readFrame_of_writeFrame h]
    exact ⟨id, 0x02, hv, by decide, iff_of_false (by decide) hread, hexec⟩
  · have hread : (readFrame i).isSome = true := by simp [h]
    cases i <;> cases h
    exact ⟨d.setWidth 8, 0x01, (device_identifier d).2, by decide, iff_of_true rfl hread, fun _ => rfl⟩

theorem State.allocAnswer_of_oracle {ok : Bool} {q : List Bool} (hm : s.params.allocModel = .oracle)
    (hq : s.allocQ = ok :: q) : s.allocAnswer = some (ok, s.setAllocQ q) := by
  simp only [State.allocAnswer, hm, hq]

theorem State.allocAnswer_of_waiting (hm : s.params.allocModel = .oracle) (hq : s.allocQ = []) :
    s.allocAnswer = none := by
  simp only [State.allocAnswer, hm, hq]

theorem State.allocAnswer_of_neverFails (hm : s.params.allocModel = .neverFails) : s.allocAnswer = some (true, s) := by
  simp only [State.allocAnswer, hm]

/-- T5b. -/
theorem peHeaderRow_refused {q : List Bool} (hs : s.pe.state = .allocateBuffer) (hm : s.params.allocModel = .oracle)
    (hq : s.allocQ = false :: q) :
    peHeaderRow id len mode s = .next { s with
      allocQ := q, trace := s.trace ++ [(.pe, .alloc len false), (.pe, .err .allocationFailure (some len))],
      pe := { s.pe with state := .sendNack, cnt := none, evt := some .allocationFailure } } := by
  simp only [peHeaderRow, hs, rowAllocate, State.allocAnswer_of_oracle hm hq, State.raise, State.log, State.setAllocQ,
    State.setPe, State.peGoto, List.append_assoc]
  rfl

end

/-- Settles O29: the checks of the fields a header is decoded from, in the order of the states that make them. -/
theorem oneCausePerHeader : Obligations.OneCausePerHeader := by
  intro s id len mode rsv
  rw [exec_decodeHeader]
  exact ⟨peHeaderRow_badBoard, peHeaderRow_goodBoard, peHeaderRow_badMode, peHeaderRow_goodMode⟩

/-- Settles O13: `HDR.BADBOARD` is the header whose board check fails. -/
theorem badBoardRaises : Obligations.BadBoardRaises := by
  intro s id len mode rsv hwf hs
  have hboard : id &&& 0xFC ≠ 0x00 := by simpa [WellFormed] using hwf
  rw [← decodeHeader_of_badBoard hboard]
  exact (oneCausePerHeader s id len mode rsv).1 hs (validateBoard_eq_false_iff.2 hboard)

/-- Settles O14: `HDR.BADMODE` is the header whose board check passes and whose mode check fails. -/
theorem badModeRaises : Obligations.BadModeRaises := by
  intro s dev len mode rsv hwf
  obtain ⟨h1, h2⟩ : mode ≠ 0x01 ∧ mode ≠ 0x02 := by simpa [WellFormed] using hwf
  obtain ⟨hboard, hdev⟩ := device_bits dev
  obtain ⟨-, hgood, hbad, -⟩ := oneCausePerHeader s (dev.setWidth 8) len mode rsv
  rw [decodeHeader_of_badMode hboard h1 h2, hdev] at hgood hbad
  exact ⟨fun hs => hgood hs (device_identifier dev).2, fun hs => hbad hs (validateMode_eq_false_iff.2 ⟨h1, h2⟩)⟩

/-- Settles O16: the board and the mode of a Write or Read instruction pass their checks. -/
theorem goodHeaderPassesChecks : Obligations.GoodHeaderPassesChecks := by
  intro s i d len hi
  obtain ⟨id, mode, hboard, hmode, -, hexec⟩ := exec_of_goodHeader hi
  rw [hexec]
  exact ⟨fun hs => peHeaderRow_goodBoard hs hboard, fun hs => peHeaderRow_goodMode hs hmode⟩

/-- Settles O17: what the allocator answers, if it answers, is what row T5a, T5b or the wait needs. -/
theorem allocateBufferAnswers : Obligations.AllocateBufferAnswers := by
  intro s i d len hs hi
  obtain ⟨id, mode, -, -, hread, hexec⟩ := exec_of_goodHeader hi
  rw [hexec]
  refine ⟨fun q hm hq => ?_, fun hm => ?_, fun q hm hq => peHeaderRow_refused hs hm hq, fun hm hq => ?_⟩ <;>
    simp only [peHeaderRow, hs, rowAllocate, ← hread]
  · rw [State.allocAnswer_of_oracle hm hq]; rfl
  · rw [State.allocAnswer_of_neverFails hm]; rfl
  · rw [State.allocAnswer_of_waiting hm hq]

/-- Settles O15: row T6 is the same whatever the header's fields, with or without a buffer to release. -/
theorem sendNackRestarts : Obligations.SendNackRestarts := by
  intro s i hi hs hroom
  obtain ⟨id, len, mode, hexec⟩ := exec_of_peHeader hi
  simp only [hexec, peHeaderRow, hs, rowSendNack, peSend_of_room hroom]
  cases ha : s.pe.alloc
  · rw [State.releaseIfHeld_of_not (by simpa using ha)]
    simp [State.peWaitStart, State.log, State.setP2h, State.setPe, Config.nack, ha]
  · rw [State.releaseIfHeld_of_held (by simpa using ha)]
    simp [State.peWaitStart, State.release, State.log, State.setP2h, State.setPe, Config.nack, Pe.setBuf, Pe.setAlloc,
      Pe.setBufRelease]

/-! ### The tokens of the peripheral (R153, R163, R164, R170) -/

theorem peTake_cons {s : State} {b b' : Byte} {k : State → Out} {q : List Byte} (h : s.h2p = b' :: q) :
    peTake b k s = k ((s.setH2p q).log .pe (.rx b)) := by
  rw [peTake, h]

/-- Settles O11: the rows T1a and T1b take the byte at the head of `h2p`; without one nothing is fetched. -/
theorem waitStartScans : Obligations.WaitStartScans := by
  intro s q hs
  refine ⟨fun hq => ?_, fun b _ hq => ?_, fun hq => ?_⟩
  · simp only [exec, execStart, hs, peTake_cons hq]; rfl
  · simp only [exec, execDiscard, hs, peTake_cons hq]; rfl
  · have hf : peFetch s = .wait := by simp only [peFetch, hs, hq, tokenAt]
    rw [agentStep, hf]; rfl

/-- Settles O20: the rows T9a and T15a differ in the state they lead to, the rows T9b and T15b not at all. -/
theorem stopByteDecides : Obligations.StopByteDecides := by
  intro s q
  refine ⟨fun hs hq => ?_, fun hs hq => ?_, fun b _ hs hq => ?_⟩
  · simp only [exec, execStop, hs, peTake_cons hq]; rfl
  · simp only [exec, execStop, hs, peTake_cons hq]; rfl
  · have hrow : exec (.stopBad b) s = .next (((s.setH2p q).log .pe (.rx b)).raise .stopByteError b) := by
      rcases hs with hs | hs <;> simp only [exec, execStopBad, hs, peTake_cons hq]
    rw [hrow]
    simp only [State.raise, State.log, State.setH2p, State.setPe, State.peGoto, List.append_assoc]
    rfl

/-! ### A Transport failure, and the engines it halts (R175, R210, R248, R280) -/

/-- Settles O30: of the failure's rows only those from a running engine apply. -/
theorem transportErrorHalts : Obligations.TransportErrorHalts := by
  intro s
  constructor
  · intro hs
    have hrow := xportErrPe_row s
    have hstep : envStep (.xportErr .pe) s = .next s.xportErrPe := rfl
    rw [hstep]
    generalize s.xportErrPe = t at hrow ⊢
    cases hrow with
    | xportPeHalted hh => exact absurd hh hs
    | xportPeHeld _ ha => simp [ha]
    | xportPeFree _ ha => simp [ha]
  · intro hs
    have hrow : EnvRow s (.xportErr .hd) s.xportErrHd := envRow_of_envStep rfl
    have hstep : envStep (.xportErr .hd) s = .next s.xportErrHd := rfl
    rw [hstep]
    generalize s.xportErrHd = t at hrow ⊢
    cases hrow with
    | xportHdFatal hh => exact absurd hh hs
    | xportHd _ => rfl

/-- From `s` to `t` the trace holds no new event of the agent. -/
def State.NoNewEvent (a : Agent) (s t : State) : Prop := t.trace.filter (·.1 = a) = s.trace.filter (·.1 = a)

section
variable {s t : State} {e : EnvMove}

/-- A halted peripheral has no row but the wait. -/
theorem PeRow.at_halted (h : PeRow s t) (hs : s.pe.state = .halted) : t.pe.state = .halted ∧ t.trace = s.trace := by
  cases h <;> simp_all

/-- A driver in `Fatal` has no row but the wait. -/
theorem HdRow.at_fatal (h : HdRow s t) (hs : s.hd.state = .fatal) : t.hd.state = .fatal ∧ t.trace = s.trace := by
  cases h <;> simp_all

/-- The peripheral's rows record no event of the host. -/
theorem PeRow.noNewEvent_hd (h : PeRow s t) : s.NoNewEvent .hd t := by
  cases h <;> simp [State.NoNewEvent]

/-- The host's rows record no event of the peripheral. -/
theorem HdRow.noNewEvent_pe (h : HdRow s t) : s.NoNewEvent .pe t := by
  cases h <;> simp [State.NoNewEvent]

theorem State.setQueue_pe (d : Dir) (q : List Byte) (s : State) : (s.setQueue d q).pe = s.pe := by
  cases d <;> rfl

theorem State.setQueue_hd (d : Dir) (q : List Byte) (s : State) : (s.setQueue d q).hd = s.hd := by
  cases d <;> rfl

/-- Of the environment's moves only its reset lets a halted peripheral out. -/
theorem EnvRow.pe_halted (h : EnvRow s e t) (hs : s.pe.state = .halted) (he : e ≠ .reset .pe) :
    t.pe.state = .halted ∧ s.NoNewEvent .pe t := by
  cases h <;> simp_all [State.NoNewEvent, State.setQueue_pe]

/-- Of the environment's moves only its reset lets a driver out of `Fatal`. -/
theorem EnvRow.hd_fatal (h : EnvRow s e t) (hs : s.hd.state = .fatal) (he : e ≠ .reset .hd) :
    t.hd.state = .fatal ∧ s.NoNewEvent .hd t := by
  cases h <;> simp_all [State.NoNewEvent, State.setQueue_hd]

end

/-- Settles O40: the engine's own rows leave it waiting, the other's are not its events, and of the environment's only reset lets
it out. -/
theorem onlyResetLeavesHalt : Obligations.OnlyResetLeavesHalt := by
  intro s t h
  suffices key : (s.afterChoice.pe.state = .halted → s.script.head? ≠ some (.env (.reset .pe)) →
        t.pe.state = .halted ∧ s.afterChoice.NoNewEvent .pe t) ∧
      (s.afterChoice.hd.state = .fatal → s.script.head? ≠ some (.env (.reset .hd)) →
        t.hd.state = .fatal ∧ s.afterChoice.NoNewEvent .hd t) by
    simpa [State.NoNewEvent] using key
  rcases step_cases s with ⟨e, ms, hscript, hstep⟩ | ⟨a, hstep, -⟩ <;> rw [hstep] at h
  · have hrow := envRow_of_envStep h
    have hhead : ∀ e', s.script.head? ≠ some (.env e') → e ≠ e' := by simp [hscript]
    exact ⟨fun hs hne => hrow.pe_halted hs (hhead _ hne), fun hs hne => hrow.hd_fatal hs (hhead _ hne)⟩
  · cases a with
    | pe =>
      have hrow := peRow_of_agentStep h
      refine ⟨fun hs _ => ?_, fun hs _ => ⟨hrow.host_eq.1 ▸ hs, hrow.noNewEvent_hd⟩⟩
      obtain ⟨hst, htr⟩ := hrow.at_halted hs
      exact ⟨hst, congrArg _ htr⟩
    | hd =>
      have hrow := hdRow_of_agentStep h
      refine ⟨fun hs _ => ⟨hrow.peripheral_eq.1 ▸ hs, hrow.noNewEvent_pe⟩, fun hs _ => ?_⟩
      obtain ⟨hst, htr⟩ := hrow.at_fatal hs
      exact ⟨hst, congrArg _ htr⟩

/-! ### Moves of one engine in a row (R151, R201, R302; log 1) -/

/-- What an engine does does not depend on the moves to come (log 1). -/
theorem agentStep_setScript (a : Agent) (s : State) (ms : List Move) :
    agentStep a (s.setScript ms) = mapNext (State.setScript ms) (agentStep a s) := by
  cases a with
  | pe =>
    have hview : (s.setScript ms).peView = s.peView := rfl
    rw [agentStep_pe_of_view, hview, agentStep_pe_of_view s]
    cases agentStep .pe s.peView <;> rfl
  | hd =>
    have hview : (s.setScript ms).hdView = s.hdView := rfl
    rw [agentStep_hd_of_view, hview, agentStep_hd_of_view s]
    cases agentStep .hd s.hdView <;> rfl

theorem core_run_succ {M : Host.Core} {n : Nat} {s t : M.State} (h : M.step s = .next t) :
    M.run (n + 1) s = M.run n t := by
  rw [Host.Core.run, h]

/-- So many moves of one engine lead from a state to another. -/
inductive Runs (a : Agent) : Nat → State → State → Prop
  | refl (s : State) : Runs a 0 s s
  | cons {n : Nat} {s t u : State} (h : agentStep a s = .next t) (hr : Runs a n t u) : Runs a (n + 1) s u

section
variable {a : Agent} {m n : Nat} {s t u : State} {ms : List Move}

theorem Runs.one (h : agentStep a s = .next t) : Runs a 1 s t := .cons h (.refl t)

theorem Runs.of_eq (h : Runs a m s t) (hmn : m = n) : Runs a n s t := hmn ▸ h

theorem Runs.trans (h : Runs a m s t) (h' : Runs a n t u) : Runs a (m + n) s u := by
  induction h with
  | refl s => rwa [Nat.zero_add]
  | cons hstep _ ih => rw [Nat.add_right_comm]; exact .cons hstep (ih h')

/-- A script that begins with the moves of a run performs the run. -/
theorem Runs.core_run_setScript (h : Runs a n s t) :
    Sys2Proof.core.run n (s.setScript (List.replicate n (.run a) ++ ms)) = .next (t.setScript ms) := by
  induction h with
  | refl s => rfl
  | @cons n s t u hstep _ ih =>
    have hfirst : step (s.setScript (List.replicate (n + 1) (.run a) ++ ms)) =
        .next (t.setScript (List.replicate n (.run a) ++ ms)) := by
      have := agentStep_setScript a s (List.replicate n (.run a) ++ ms)
      rw [hstep] at this
      exact this
    have hrun : Sys2Proof.core.run (n + 1) (s.setScript (List.replicate (n + 1) (.run a) ++ ms)) =
        Sys2Proof.core.run n (t.setScript (List.replicate n (.run a) ++ ms)) := core_run_succ (M := Sys2Proof.core) hfirst
    exact hrun.trans ih

theorem Runs.core_run (h : Runs a n s t) (hs : s.script = List.replicate n (.run a) ++ ms) :
    Sys2Proof.core.run n s = .next (t.setScript ms) := by
  have := h.core_run_setScript (ms := ms)
  rwa [← hs] at this

end

/-! ### The pieces of a frame at the peripheral (R151, R153 to R174) -/

section
variable {s : State} {i : Instr} {d : DevId} {id len mode b : Byte} {rsv : Rsv} {q : List Byte}

/-- A move of the peripheral is the row of what it fetches. -/
theorem runs_fetched {t : State} (hf : peFetch s = .instr i) (h : exec i s.dropPePulses = .next t) : Runs .pe 1 s t :=
  .one (by rw [agentStep, hf]; exact h)

/-- In a state that reads no byte the peripheral's move is the row of the header it holds. -/
theorem runs_row {t : State} (st : PeState) (hs : s.pe.state = st) (hh : s.pe.header = .instr i)
    (h : exec i s.dropPePulses = .next t)
    (hst : st ∉ [PeState.waitStart, .readHeader, .wStop, .rStop, .halted] := by decide) : Runs .pe 1 s t :=
  runs_fetched ((peFetch_of_header (hs ▸ hst)).trans hh) h

theorem runs_headerRow {t : State} (st : PeState) (hs : s.pe.state = st)
    (hh : s.pe.header = .instr (decodeHeader id len mode rsv)) (h : peHeaderRow id len mode s.dropPePulses = .next t)
    (hst : st ∉ [PeState.waitStart, .readHeader, .wStop, .rStop, .halted] := by decide) : Runs .pe 1 s t :=
  runs_row st hs hh ((exec_decodeHeader id len mode rsv _).trans h) hst

/-- A byte taken at the stop position. -/
theorem runs_stopByte {t : State} (hs : s.pe.state = .wStop ∨ s.pe.state = .rStop) (hq : s.h2p = b :: q)
    (h : exec (decodeStop b) s.dropPePulses = .next t) : Runs .pe 1 s t :=
  runs_fetched (by rcases hs with hs | hs <;> simp only [peFetch, hs, hq, tokenAt]) h

/-- The peripheral when it has just received a whole header. -/
def Pe.received (id len mode : Byte) (rsv : Rsv) (p : Pe) : Pe :=
  { p with
    state := .validateBoard, cnt := none, evt := none, bufRelease := false,
    id := some id, len := some len, mode := some mode,
    rsv0 := some rsv.r0, rsv1 := some rsv.r1, rsv2 := some rsv.r2, rsv3 := some rsv.r3 }

theorem Pe.received_header (p : Pe) : (p.received id len mode rsv).header = .instr (decodeHeader id len mode rsv) := rfl

/-- Rows T1a, T2a and T2b: a whole header arrives. -/
theorem runs_header (hs : s.pe.state = .waitStart) (hq : s.h2p = headerBytes 0xFE id len mode rsv ++ q) :
    Runs .pe 8 s { s with
      h2p := q, trace := s.trace ++ eventsOf .pe ((headerBytes 0xFE id len mode rsv).map .rx),
      pe := s.pe.received id len mode rsv } := by
  have hf : peFetch s = .instr .start := by simp only [peFetch, hs, hq]; rfl
  obtain ⟨hstart, -⟩ := waitStartScans s.dropPePulses _ hs
  have hrun := (runs_fetched hf (hstart hq)).trans <|
    .cons (readHeaderStores _ 1 id _ rfl rfl (by decide) (by decide) rfl) <|
    .cons (readHeaderStores _ 2 len _ rfl rfl (by decide) (by decide) rfl) <|
    .cons (readHeaderStores _ 3 mode _ rfl rfl (by decide) (by decide) rfl) <|
    .cons (readHeaderStores _ 4 rsv.r0 _ rfl rfl (by decide) (by decide) rfl) <|
    .cons (readHeaderStores _ 5 rsv.r1 _ rfl rfl (by decide) (by decide) rfl) <|
    .cons (readHeaderStores _ 6 rsv.r2 _ rfl rfl (by decide) (by decide) rfl) <|
    .one (readHeaderStores _ 7 rsv.r3 q rfl rfl (by decide) (by decide) rfl)
  simpa [Pe.received, eventsOf, headerBytes] using hrun

theorem goodHeader_context (h : writeFrame i = some (d, len) ∨ readFrame i = some (d, len)) : i.context = .peHeader := by
  cases i <;> simp_all [writeFrame, readFrame, Instr.context]

theorem goodHeader_wellFormed (h : writeFrame i = some (d, len) ∨ readFrame i = some (d, len)) : WellFormed i = true := by
  cases i <;> simp_all [writeFrame, readFrame, WellFormed]

/-- A Write or Read header arrives, passes both checks and gets a buffer: rows T1a to T5a. -/
theorem runs_accepted {aq : List Bool} (hi : writeFrame i = some (d, len) ∨ readFrame i = some (d, len))
    (hs : s.pe.state = .waitStart) (hm : s.params.allocModel = .oracle) (hq : s.h2p = encode i ++ q)
    (ha : s.allocQ = true :: aq) :
    ∃ p : Pe, p.header = .instr i ∧ p.state = (if (readFrame i).isSome then .rHdrAck else .wHdrAck) ∧
      p.alloc = true ∧
      Runs .pe 11 s { s with
        h2p := q, allocQ := aq, trace := s.trace ++ eventsOf .pe ((encode i).map .rx ++ [.alloc len true]), pe := p } := by
  obtain ⟨id, len', mode, rsv, henc, rfl⟩ := exists_decodeHeader_eq (goodHeader_context hi) (goodHeader_wellFormed hi)
  rw [henc] at hq ⊢
  have hh := Pe.received_header (id := id) (len := len') (mode := mode) (rsv := rsv) s.pe
  have hrun := (((runs_header hs hq).trans
    (runs_row .validateBoard rfl hh ((goodHeaderPassesChecks _ _ d len hi).1 rfl))).trans
    (runs_row .validateMode rfl hh ((goodHeaderPassesChecks _ _ d len hi).2 rfl))).trans
    (runs_row .allocateBuffer rfl hh ((allocateBufferAnswers _ _ d len rfl hi).1 aq hm ha))
  refine ⟨_, ?_, ?_, ?_, by simpa [eventsOf] using hrun⟩
  all_goals rfl

/-- Rows T8a and T8b: the payload of a Write frame arrives in `BUF`. -/
theorem runs_payload (hi : writeFrame i = some (d, len)) {payload : List Byte} {c : Cnt}
    (hs : s.pe.state = .wPayload) (hh : s.pe.header = .instr i) (hc : s.pe.cnt = some c)
    (hlen : c.toNat + payload.length = len.toNat) (hq : s.h2p = payload ++ q) :
    Runs .pe (payload.length + 1) s { s with
      h2p := q, trace := s.trace ++ eventsOf .pe (payload.map .rx),
      pe := { s.pe with
        state := .wStop, cnt := none, buf := s.pe.buf.writeSeq c.toNat payload, evt := none, bufRelease := false } } := by
  induction payload generalizing s c with
  | nil =>
    obtain ⟨-, -, hdone, -⟩ := writeFlowRows s.dropPePulses i d len hi
    subst hq
    simpa [eventsOf, Memory.writeSeq] using runs_row .wPayload hs hh (hdone c hs hc hlen)
  | cons b payload ih =>
    obtain ⟨-, hbyte, -⟩ := writeFlowRows s.dropPePulses i d len hi
    have hlt : c.toNat < len.toNat := by rw [List.length_cons] at hlen; omega
    have hsucc : (c + 1).toNat = c.toNat + 1 := Cnt.toNat_succ (by have := len.isLt; omega)
    have hfirst := runs_row .wPayload hs hh (hbyte c b _ hs hc hlt hq)
    have hlen' : (c + 1).toNat + payload.length = len.toNat := by rw [List.length_cons] at hlen; omega
    have hrun := hfirst.trans (ih hs hh rfl hlen' rfl)
    rw [hsucc] at hrun
    simpa [eventsOf, Memory.writeSeq, Nat.add_comm] using hrun

/-- Row T7. -/
theorem runs_writeHdrAck (hi : writeFrame i = some (d, len)) (hs : s.pe.state = .wHdrAck) (hh : s.pe.header = .instr i)
    (hbp : s.params.backPressure = false) :
    Runs .pe 1 s { s with
      p2h := s.p2h ++ [0x0F], trace := s.trace ++ [(.pe, .tx 0x0F)],
      pe := { s.pe with state := .wPayload, cnt := some 0, evt := none, bufRelease := false } } := by
  obtain ⟨hack, -⟩ := writeFlowRows s.dropPePulses i d len hi
  exact runs_row .wHdrAck hs hh (hack hs (State.hasRoom_of_no_backPressure hbp))

/-- Row T10. -/
theorem runs_writeFinalAck (hi : writeFrame i = some (d, len)) (hs : s.pe.state = .wFinalAck)
    (hh : s.pe.header = .instr i) (hbp : s.params.backPressure = false) :
    Runs .pe 1 s { s with
      p2h := s.p2h ++ [0x0F], trace := s.trace ++ [(.pe, .tx 0x0F)],
      pe := { s.pe with state := .wDispatch, cnt := none, evt := none, bufRelease := false } } := by
  obtain ⟨-, -, -, hack, -⟩ := writeFlowRows s.dropPePulses i d len hi
  exact runs_row .wFinalAck hs hh (hack hs (State.hasRoom_of_no_backPressure hbp))

/-- Row T11. -/
theorem runs_dispatch {n : Nat} {bytes : List Byte} (hi : writeFrame i = some (d, len)) (hs : s.pe.state = .wDispatch)
    (hh : s.pe.header = .instr i) (hn : s.devwQ = n + 1) (hb : s.pe.buf.readSeq 0 len.toNat = some bytes) :
    Runs .pe 1 s { s with
      devwQ := n, trace := s.trace ++ [(.pe, .devw (if d = 0 then .led else .lcd) d bytes), (.pe, .release)],
      pe := { Pe.reset with evt := some .frameDoneWrite, bufRelease := true } } := by
  obtain ⟨-, -, -, -, -, hcall⟩ := writeFlowRows s.dropPePulses i d len hi
  exact runs_row .wDispatch hs hh (hcall n bytes hs hn hb)

/-- Row T12. -/
theorem runs_readHdrAck (hs : s.pe.state = .rHdrAck) (hh : s.pe.header = .instr (.readAdc d len rsv))
    (hbp : s.params.backPressure = false) :
    Runs .pe 1 s { s with
      p2h := s.p2h ++ [0x0F], trace := s.trace ++ [(.pe, .tx 0x0F)],
      pe := { s.pe with state := .rFill, cnt := none, evt := none, bufRelease := false } } := by
  obtain ⟨hack, -⟩ := readFlowRows s.dropPePulses d len rsv
  exact runs_row .rHdrAck hs hh (hack hs (State.hasRoom_of_no_backPressure hbp))

/-- Row T13. -/
theorem runs_fill {samples : List Byte} (hs : s.pe.state = .rFill) (hh : s.pe.header = .instr (.readAdc d len rsv))
    (hlen : samples.length = len.toNat) (hq : s.adcQ = samples ++ q) :
    Runs .pe 1 s { s with
      adcQ := q, trace := s.trace ++ [(.pe, .devr .adc d len samples)],
      pe := { s.pe with
        state := .rStream, cnt := some 0, buf := s.pe.buf.writeSeq 0 samples, evt := none, bufRelease := false } } := by
  obtain ⟨-, -, hfill, -⟩ := readFlowRows s.dropPePulses d len rsv
  exact runs_row .rFill hs hh (hfill samples q hs hlen hq)

/-- Rows T14a and T14b: the buffer is sent, then released. -/
theorem runs_stream {samples : List Byte} {c : Cnt} (hs : s.pe.state = .rStream)
    (hh : s.pe.header = .instr (.readAdc d len rsv)) (hc : s.pe.cnt = some c)
    (hlen : c.toNat + samples.length = len.toNat) (hb : s.pe.buf.readSeq c.toNat samples.length = some samples)
    (hbp : s.params.backPressure = false) :
    Runs .pe (samples.length + 1) s { s with
      p2h := s.p2h ++ samples, trace := s.trace ++ eventsOf .pe (samples.map .tx ++ [.release]),
      pe := { s.pe with state := .rStop, cnt := none, alloc := false, buf := [], evt := none, bufRelease := true } } := by
  induction samples generalizing s c with
  | nil =>
    obtain ⟨-, -, -, -, hdone, -⟩ := readFlowRows s.dropPePulses d len rsv
    simpa [eventsOf] using runs_row .rStream hs hh (hdone c hs hc hlen)
  | cons b samples ih =>
    obtain ⟨-, -, -, hbyte, -⟩ := readFlowRows s.dropPePulses d len rsv
    obtain ⟨-, hread, hrest⟩ := Memory.readSeq_tail hb
    have hroom : s.dropPePulses.hasRoom .p2h = true := State.hasRoom_of_no_backPressure hbp
    have hlt : c.toNat < len.toNat := by rw [List.length_cons] at hlen; omega
    have hsucc : (c + 1).toNat = c.toNat + 1 := Cnt.toNat_succ (by have := len.isLt; omega)
    have hlen' : (c + 1).toNat + samples.length = len.toNat := by rw [List.length_cons] at hlen; omega
    have hfirst := runs_row .rStream hs hh (hbyte c b hs hc hlt hread hroom)
    have hrun := hfirst.trans (ih hs hh rfl hlen' (by rw [hsucc]; exact hrest) hbp)
    simpa [eventsOf, Nat.add_comm] using hrun

/-- Row T16. -/
theorem runs_readFinalAck (hs : s.pe.state = .rFinalAck) (hh : s.pe.header = .instr (.readAdc d len rsv))
    (hbp : s.params.backPressure = false) :
    Runs .pe 1 s { s with
      p2h := s.p2h ++ [0x0F], trace := s.trace ++ [(.pe, .tx 0x0F)],
      pe := { Pe.reset with alloc := s.pe.alloc, buf := s.pe.buf, evt := some .frameDoneRead } } := by
  obtain ⟨-, -, -, -, -, hack⟩ := readFlowRows s.dropPePulses d len rsv
  exact runs_row .rFinalAck hs hh (hack hs (State.hasRoom_of_no_backPressure hbp))

/-- Row T9a. -/
theorem runs_writeStop (hs : s.pe.state = .wStop) (hq : s.h2p = 0x01 :: q) :
    Runs .pe 1 s { s with
      h2p := q, trace := s.trace ++ [(.pe, .rx 0x01)],
      pe := { s.pe with state := .wFinalAck, cnt := none, evt := none, bufRelease := false } } := by
  obtain ⟨hstop, -⟩ := stopByteDecides s.dropPePulses q
  exact runs_stopByte (.inl hs) hq (hstop hs hq)

/-- Row T15a. -/
theorem runs_readStop (hs : s.pe.state = .rStop) (hq : s.h2p = 0x01 :: q) :
    Runs .pe 1 s { s with
      h2p := q, trace := s.trace ++ [(.pe, .rx 0x01)],
      pe := { s.pe with state := .rFinalAck, cnt := none, evt := none, bufRelease := false } } := by
  obtain ⟨-, hstop, -⟩ := stopByteDecides s.dropPePulses q
  exact runs_stopByte (.inr hs) hq (hstop hs hq)

/-- Rows T9b and T15b. -/
theorem runs_stopBad (hb : b ≠ 0x01) (hs : s.pe.state = .wStop ∨ s.pe.state = .rStop) (hq : s.h2p = b :: q) :
    Runs .pe 1 s { s with
      h2p := q, trace := s.trace ++ [(.pe, .rx b), (.pe, .err .stopByteError (some b))],
      pe := { s.pe with state := .sendNack, cnt := none, evt := some .stopByteError, bufRelease := false } } := by
  obtain ⟨-, -, hbad⟩ := stopByteDecides s.dropPePulses q
  have hdec : decodeStop b = .stopBad b := if_neg hb
  exact runs_stopByte hs hq (by rw [hdec]; exact hbad b hb hs hq)

/-- Row T6. -/
theorem runs_nack (hi : i.context = .peHeader) (hs : s.pe.state = .sendNack) (hh : s.pe.header = .instr i)
    (hbp : s.params.backPressure = false) :
    Runs .pe 1 s { s with
      p2h := s.p2h ++ [0xF0], trace := s.trace ++ [(.pe, .tx 0xF0)] ++ (if s.pe.alloc then [(.pe, .release)] else []),
      pe := { Pe.reset with buf := if s.pe.alloc then [] else s.pe.buf, bufRelease := s.pe.alloc } } := by
  have hrow := sendNackRestarts s.dropPePulses i hi hs (State.hasRoom_of_no_backPressure hbp)
  refine runs_row .sendNack hs hh ?_
  cases ha : s.pe.alloc <;> simpa [Pe.reset, ha] using hrow

end

/-! ### Whole frames at the peripheral (R164, R171 to R173, R176) -/

section
variable {s : State} {i : Instr} {d : DevId} {len : Byte} {payload q : List Byte} {aq : List Bool}

/-- A Write frame up to its stop byte: its header is acknowledged and its payload is in `BUF`. -/
theorem runs_writeFrame (hi : writeFrame i = some (d, len)) (hlen : payload.length = len.toNat)
    (hs : s.pe.state = .waitStart) (hm : s.params.allocModel = .oracle)
    (hbp : s.params.backPressure = false) (hq : s.h2p = encode i ++ payload ++ q) (ha : s.allocQ = true :: aq) :
    ∃ p : Pe, p.header = .instr i ∧ p.state = .wStop ∧ p.alloc = true ∧ p.buf.readSeq 0 len.toNat = some payload ∧
      Runs .pe (len.toNat + 13) s { s with
        h2p := q, p2h := s.p2h ++ [0x0F], allocQ := aq,
        trace := s.trace ++ eventsOf .pe ((encode i).map .rx ++ [.alloc len true, .tx 0x0F] ++ payload.map .rx),
        pe := p } := by
  obtain ⟨p, hh, hst, halloc, hrun⟩ := runs_accepted (.inl hi) hs hm (by rwa [List.append_assoc] at hq) ha
  have hst : p.state = .wHdrAck := by simpa [readFrame_of_writeFrame hi] using hst
  have hrun := (hrun.trans (runs_writeHdrAck hi hst hh hbp)).trans
    (runs_payload hi rfl hh rfl (by simpa using hlen) rfl)
  refine ⟨_, ?_, ?_, ?_, ?_, by simpa [eventsOf] using hrun.of_eq (by omega)⟩
  · exact hh
  · rfl
  · exact halloc
  · rw [← hlen]
    exact Memory.readSeq_writeSeq p.buf 0 payload

end

/-- Settles O47: the frame up to its stop byte, then the rows T9a, T10 and T11. -/
theorem writeFrameDelivered : Obligations.WriteFrameDelivered := by
  intro s i d len id r0 r1 r2 r3 payload rest q n ms hi henc hlen hs _ hm hbp hq ha hn hscript
  obtain ⟨p, hh, hst, -, hpbuf, hrun⟩ :=
    runs_writeFrame hi hlen hs hm hbp (by rwa [List.append_assoc] at hq) ha
  have hrun := ((hrun.trans (runs_writeStop hst rfl)).trans (runs_writeFinalAck hi rfl hh hbp)).trans
    (runs_dispatch hi rfl hh hn hpbuf)
  refine ⟨_, hrun.core_run hscript, rfl, ?_, ?_, rfl, ⟨rfl, rfl, rfl, rfl, rfl, rfl, rfl⟩, rfl, rfl, rfl, rfl, rfl⟩
  · simp
  · simp [henc, eventsOf]

/-- Settles O48: the frame up to its stop byte, then the rows T9b and T6 with the buffer held. -/
theorem writeStopErrorNotDispatched : Obligations.WriteStopErrorNotDispatched := by
  intro s i d len id r0 r1 r2 r3 b payload rest q ms hi henc hlen hb hs _ hm hbp hq ha hscript
  obtain ⟨p, hh, hst, halloc, -, hrun⟩ :=
    runs_writeFrame hi hlen hs hm hbp (by rwa [List.append_assoc] at hq) ha
  have hrun := (hrun.trans (runs_stopBad hb (.inl hst) rfl)).trans
    (runs_nack (goodHeader_context (.inl hi)) rfl hh hbp)
  refine ⟨_, hrun.core_run hscript, rfl, ?_, ?_, rfl, ⟨rfl, rfl, rfl, rfl, rfl, rfl, rfl⟩, rfl, ?_, rfl, rfl, rfl⟩
  · simp
  · simp [henc, eventsOf, halloc]
  · simp [halloc]

/-- Settles O49: an accepted Read header, then the rows T12, T13, T14a, T14b, T15a and T16. -/
theorem readFrameStreamed : Obligations.ReadFrameStreamed := by
  intro s d len id r0 r1 r2 r3 samples rest q aq ms henc hlen hs _ hm hbp hq ha hadc hscript
  obtain ⟨p, hh, hst, -, hrun⟩ :=
    runs_accepted (.inr rfl) hs hm (by rwa [List.append_assoc] at hq) ha
  have hfilled : (p.buf.writeSeq 0 samples).readSeq 0 samples.length = some samples :=
    Memory.readSeq_writeSeq p.buf 0 samples
  have hrun := ((((hrun.trans (runs_readHdrAck hst hh hbp)).trans (runs_fill rfl hh hlen hadc)).trans
    (runs_stream rfl hh rfl (by simpa using hlen) hfilled hbp)).trans (runs_readStop rfl rfl)).trans
    (runs_readFinalAck rfl hh hbp)
  refine ⟨_, (hrun.of_eq (by omega)).core_run hscript, rfl, ?_, rfl, ?_, rfl, ⟨rfl, rfl, rfl, rfl, rfl, rfl, rfl⟩, rfl, rfl,
    rfl, rfl, rfl⟩
  · simp
  · simp [henc, eventsOf]

section
variable {s : State} {i : Instr} {rest : List Byte} {aq : List Bool} {p : Pe} {n : Nat} {ms : List Move}
  {tr tr' : List (Agent × Event)}

/-- A header refused before a buffer was taken ends with row T6: one `NACK`, and the engine scans again. -/
theorem core_run_refusedHeader
    (hrun : Runs .pe n s { s with h2p := rest, allocQ := aq, trace := tr, pe := p })
    (hi : i.context = .peHeader) (hs : p.state = .sendNack) (hh : p.header = .instr i) (halloc : p.alloc = false)
    (hbuf : p.buf = s.pe.buf) (hbp : s.params.backPressure = false) (htr : tr ++ [(.pe, .tx 0xF0)] = tr')
    (hscript : s.script = List.replicate (n + 1) (.run .pe) ++ ms) :
    ∃ t, Sys2Proof.core.run (n + 1) s = .next t ∧ t.h2p = rest ∧ t.p2h = s.p2h ++ [0xF0] ∧
      t.trace = tr' ∧ t.pe.state = .waitStart ∧ t.pe.NoHeader ∧ t.pe.alloc = false ∧ t.pe.buf = s.pe.buf ∧
      t.allocQ = aq ∧ t.adcQ = s.adcQ ∧ t.devwQ = s.devwQ ∧ t.hd = s.hd := by
  refine ⟨_, (hrun.trans (runs_nack hi hs hh hbp)).core_run hscript, rfl, rfl, ?_, rfl,
    ⟨rfl, rfl, rfl, rfl, rfl, rfl, rfl⟩, rfl, ?_, rfl, rfl, rfl, rfl⟩
  · simp [halloc, ← htr]
  · simp [halloc, hbuf]

end

/-- Settles O50: the header arrives, the states before the one that refuses it are passed, and row T6 follows. -/
theorem headerErrorOneNack : Obligations.HeaderErrorOneNack := by
  intro s id len mode r0 r1 r2 r3 rest ms hs halloc hbp hq
  have hheader := runs_header (rsv := ⟨r0, r1, r2, r3⟩) hs hq
  have hh := Pe.received_header (id := id) (len := len) (mode := mode) (rsv := ⟨r0, r1, r2, r3⟩) s.pe
  have hi : (decodeHeader id len mode ⟨r0, r1, r2, r3⟩).context = .peHeader := encodes_decodeHeader.context
  refine ⟨fun hboard hscript => ?_, fun hboard h1 h2 hscript => ?_, fun q hboard hmode hm ha hscript => ?_⟩
  · have hbad := validateBoard_eq_false_iff.2 hboard
    have hrun := hheader.trans (runs_headerRow .validateBoard rfl hh (peHeaderRow_badBoard rfl hbad))
    exact core_run_refusedHeader hrun hi rfl hh halloc rfl hbp (by simp [eventsOf, headerBytes]) hscript
  · have hgood : validateBoard id = true := by simpa using mt validateBoard_eq_false_iff.1 (not_not.2 hboard)
    have hbad := validateMode_eq_false_iff.2 ⟨h1, h2⟩
    have hrun := (hheader.trans (runs_headerRow .validateBoard rfl hh (peHeaderRow_goodBoard rfl hgood))).trans
      (runs_headerRow .validateMode rfl hh (peHeaderRow_badMode rfl hbad))
    exact core_run_refusedHeader hrun hi rfl hh halloc rfl hbp (by simp [eventsOf, headerBytes]) hscript
  · have hgood : validateBoard id = true := by simpa using mt validateBoard_eq_false_iff.1 (not_not.2 hboard)
    have hrun := ((hheader.trans (runs_headerRow .validateBoard rfl hh (peHeaderRow_goodBoard rfl hgood))).trans
      (runs_headerRow .validateMode rfl hh (peHeaderRow_goodMode rfl (validateMode_iff.2 hmode)))).trans
      (runs_headerRow .allocateBuffer rfl hh (peHeaderRow_refused rfl hm ha))
    exact core_run_refusedHeader hrun hi rfl hh halloc rfl hbp (by simp [eventsOf, headerBytes]) hscript

end Sys2Proof.Machine

/-! ## Family `43_host_driver`: the rows of R201, the operator's triggers, whole cycles, the final report -/

namespace Sys2Proof.Machine

/-! ### The operator's triggers (R212) -/

section
variable (s : State)

theorem State.operator_start : s.operator .start = if s.hd.state = .idle then s.setOpStart true else s := by
  cases hs : s.hd.state <;> simp only [State.operator, hs] <;> rfl

theorem State.operator_retry : s.operator .retry = if s.hd.state = .retryPrompt then s.setOpRetry true else s := by
  cases hs : s.hd.state <;> simp only [State.operator, hs] <;> rfl

end

/-- Settles O33: each trigger is remembered in its own state and lost in every other. -/
theorem operatorTriggers : Obligations.OperatorTriggers := fun s =>
  ⟨congrArg Host.Outcome.next s.operator_start, congrArg Host.Outcome.next s.operator_retry⟩

/-! ### The acknowledgments (R205, R209, R211) -/

section
variable {s : State} {b : Byte}

theorem isAck_iff : isAck b = true ↔ b = 0x0F := beq_iff_eq

theorem hdTakeAck_cons {b' : Byte} {k : State → Out} {q : List Byte} (h : s.p2h = b' :: q) :
    hdTakeAck b k s = k (((s.setP2h q).log .hd (.rx b)).setHd (s.hd.setLastAck (some b))) := by
  rw [hdTakeAck, h]

/-- Rows H7 and H10 are one. -/
theorem hdAckRow_final (hs : s.hd.state = .wWaitFinal ∨ s.hd.state = .rWaitFinal) :
    hdAckRow b s =
      hdTakeAck b (fun s => .next ((s.hdReport (if isAck b then .success else .stopBitsError)).hdGoto .idle)) s := by
  rcases hs with hs | hs <;> simp only [hdAckRow, hs]

end

/-- Settles O21: whether the byte is 0x0F decides, and then the stored mode. -/
theorem headerAcknowledgment : Obligations.HeaderAcknowledgment := by
  intro s i b q hs hq hi _
  rw [exec_of_ackByte hi]
  refine ⟨fun m hb hm => ?_, fun hb => ?_⟩ <;> simp only [hdAckRow, hs]
  · rw [if_pos (isAck_iff.2 hb), hm, need_some, hdTakeAck_cons hq]
    rfl
  · rw [if_neg (mt isAck_iff.1 hb), hdTakeAck_cons hq]
    simp only [State.hdReport, State.log, State.setP2h, State.setHd, State.hdGoto, List.append_assoc]
    rfl

/-- Settles O22: one row serves both final waits, and the byte chooses its report. -/
theorem finalAcknowledgment : Obligations.FinalAcknowledgment := by
  intro s i b q hs hq hi _
  rw [exec_of_ackByte hi, hdAckRow_final hs, hdTakeAck_cons hq]
  simp only [isAck_iff, State.hdReport, State.log, State.setP2h, State.setHd, State.hdGoto, List.append_assoc]
  rfl

/-! ### The rows that send the stored frame (R203, R206, R207) -/

/-- Settles O23: the rows H1, H4, H2a and H2b of a stored frame. -/
theorem hostSendsStoredHeader : Obligations.HostSendsStoredHeader := by
  intro s i len hi
  rw [exec_of_hostFrame hi]
  refine ⟨fun hs ho => ?_, fun hs ho => ?_, fun c b hs hc h7 hb hroom => ?_⟩ <;> simp only [hdStoreRow, hs]
  · rw [rowIdle, if_pos ho]; rfl
  · rw [rowRetryPrompt, if_pos ho]; rfl
  · rw [rowSendHeader, hc, need_some, if_pos h7, hfsHeaderAddr, hb, need_some, hdSend_of_room hroom]
    by_cases hlast : c.toNat = 7
    · simp only [hlast, Nat.lt_irrefl, if_false, if_true]
      rfl
    · simp only [hlast, Nat.lt_of_le_of_ne h7 hlast, if_false, if_true]
      rfl

/-- Settles O24: the rows H5a, H5b and H6 of a stored frame. -/
theorem hostWriteRows : Obligations.HostWriteRows := by
  intro s i len hi
  rw [exec_of_hostFrame hi]
  refine ⟨fun c b hs hc hlt hb hroom => ?_, fun c hs hc heq => ?_, fun b hs hb hroom => ?_⟩ <;>
    simp only [hdStoreRow, hs]
  · have haddr : hfsPayloadAddr c = 8 + c.toNat := hfsPayloadAddr_eq (by have := len.isLt; omega)
    rw [rowWSendPayload, hc, need_some, Cnt.countRow_of_lt hlt, haddr, hb, need_some, hdSend_of_room hroom, ← hs]
    rfl
  · rw [rowWSendPayload, hc, need_some, Cnt.countRow_of_eq heq]; rfl
  · rw [rowWSendStop, hfsStopAddr_eq, hb, need_some, hdSend_of_room hroom]; rfl

/-! ### The final report of two engines in step (R217, R295) -/

section
variable {s t : State} {b : Byte} {q : List Byte}

/-- The final acknowledgment in flight tells the stored stop byte, and a Read has then been delivered. -/
theorem State.InStep.final_decides (hs : s.InStep) (hst : s.hd.state = .wWaitFinal ∨ s.hd.state = .rWaitFinal)
    (hq : s.p2h = b :: q) :
    (b = Config.ack ↔ s.hd.stopByte = some Config.stop) ∧ (s.hd.state = .rWaitFinal → s.ReadDelivered) := by
  have hnack : Config.nack ≠ Config.ack := by decide
  obtain ⟨-, hin⟩ := hs
  rcases hst with hst | hst <;> simp only [hst] at hin ⊢
  · rcases hin with ⟨_, _, -, -, hp, -⟩ | ⟨-, hp, -⟩ | ⟨-, hp, -⟩ | ⟨-, hp, -, hstop⟩ | ⟨-, hp, -, hstop⟩ <;>
      cases hq.symm.trans hp
    · exact ⟨iff_of_true rfl hstop, nofun⟩
    · exact ⟨iff_of_false hnack hstop, nofun⟩
  · rcases hin with ⟨hp, -⟩ | ⟨-, hp, -⟩ | ⟨-, hp, -⟩ | ⟨-, hp, -, hstop, hd⟩ | ⟨-, hp, -, hstop, hd⟩ <;>
      cases hq.symm.trans hp
    · exact ⟨iff_of_true rfl hstop, fun _ => hd⟩
    · exact ⟨iff_of_false hnack hstop, fun _ => hd⟩

/-- A row of the host that leaves a final wait takes the final acknowledgment, and `HRX` stays as it was. -/
theorem HdRow.at_final (h : HdRow s t) (hst : s.hd.state = .wWaitFinal ∨ s.hd.state = .rWaitFinal)
    (hidle : t.hd.state = .idle) :
    ∃ b q, s.p2h = b :: q ∧ t.hd.rpt = some (if b = Config.ack then .success else .stopBitsError) ∧
      t.hd.hrx = s.hd.hrx ∧ lastSample t.trace = lastSample s.trace := by
  cases h with
  | final b q _ hq => exact ⟨b, q, hq, rfl, rfl, lastSample_append_of_not _ _ (by simp)⟩
  | _ => simp_all

end

/-- Settles O56: the byte that ends the cycle is the peripheral's verdict on the stored stop byte. -/
theorem finalReportIsDetermined : Obligations.FinalReportIsDetermined := by
  intro s t _ hs h hidle hst
  obtain ⟨b, q, hq, hrpt, hhrx, hlast⟩ := (hdRow_of_agentStep h).at_final hst hidle
  obtain ⟨hstop, hread⟩ := hs.final_decides hst hq
  rw [hrpt, hhrx, hlast]
  refine ⟨Iff.trans ?_ hstop, ?_, hread⟩ <;> by_cases hb : b = Config.ack <;> simp [hb]

/-! ### The pieces of a cycle at the host (R203 to R209) -/

/-- A sequence read splits where its bytes do. -/
theorem Memory.readSeq_append {m : Memory} {a k n : Nat} {xs ys : List Byte} (h : m.readSeq a (k + n) = some (xs ++ ys))
    (hk : xs.length = k) : m.readSeq a k = some xs ∧ m.readSeq (a + k) n = some ys := by
  obtain ⟨hl, hr⟩ := Memory.readSeq_eq_some.1 h
  rw [List.length_append] at hl
  refine ⟨Memory.readSeq_eq_some.2 ⟨hk, fun i hi => ?_⟩, Memory.readSeq_eq_some.2 ⟨by omega, fun i hi => ?_⟩⟩
  · rw [hr i (by omega), List.getElem?_append_left (by omega)]
  · rw [Nat.add_assoc, hr (k + i) (by omega), List.getElem?_append_right (by omega), hk, Nat.add_sub_cancel_left]

/-- The parts of a stored frame (R34). -/
theorem Memory.readSeq_frame {m : Memory} {len stop : Byte} {hdr payload : List Byte} (h8 : hdr.length = 8)
    (hlen : payload.length = len.toNat) (h : m.readSeq 0 (9 + len.toNat) = some (hdr ++ payload ++ [stop])) :
    m.readSeq 0 8 = some hdr ∧ m.readSeq 8 len.toNat = some payload ∧ m.read (8 + len.toNat) = some stop := by
  rw [show 9 + len.toNat = 8 + (len.toNat + 1) by omega, List.append_assoc] at h
  obtain ⟨hhdr, h⟩ := Memory.readSeq_append h h8
  obtain ⟨hpayload, h⟩ := Memory.readSeq_append h hlen
  obtain ⟨-, hstop, -⟩ := Memory.readSeq_tail h
  exact ⟨hhdr, by simpa using hpayload, by simpa using hstop⟩

section
variable {s : State} {i : Instr} {len b : Byte} {hdr bs q : List Byte} {c : Cnt}

/-- The header stored is a stored frame's instruction, of the length it names. -/
theorem Hd.stored_of_header {h : Hd} (hh : h.hfs.readSeq 0 8 = some hdr) (hlen : hdr[2]? = some len) :
    ∃ i, h.stored = .instr i ∧ hostFrame i = some len := by
  obtain ⟨hd, rfl⟩ := exists_codecEncode_eq hdr (Memory.readSeq_length hh)
  cases hlen
  refine ⟨decodeStore hd.start hd.id hd.len hd.mode hd.rsv, ?_, ?_⟩
  · simp only [Hd.stored, hh, codecEncode]
  · unfold decodeStore
    split <;> rfl

/-- Away from the acknowledgments the driver's move is the row of the frame it has stored. -/
theorem runs_stored {t : State} (hs : s.hd.state = .idle ∧ s.opStart = true ∨
      s.hd.state = .retryPrompt ∧ s.opRetry = true ∨
      s.hd.state ∈ [HdState.sendHeader, .wSendPayload, .wSendStop, .rRecvPayload, .rSendStop])
    (hh : s.hd.stored = .instr i) (h : exec i s.dropHdPulses = .next t) : Runs .hd 1 s t :=
  .one (by rw [agentStep, hdFetch_of_stored hs, hh]; exact h)

/-- The same in a state that needs no trigger. -/
theorem runs_storedRow {t : State} (st : HdState) (hs : s.hd.state = st) (hh : s.hd.stored = .instr i)
    (h : exec i s.dropHdPulses = .next t)
    (hst : st ∈ [HdState.sendHeader, .wSendPayload, .wSendStop, .rRecvPayload, .rSendStop] := by decide) : Runs .hd 1 s t :=
  runs_stored (.inr (.inr (hs ▸ hst))) hh h

/-- Row H2a, or H2b after the last byte. -/
theorem runs_headerByte (hi : hostFrame i = some len) (hs : s.hd.state = .sendHeader) (hh : s.hd.stored = .instr i)
    (hc : s.hd.cnt = some c) (h7 : c.toNat ≤ 7) (hb : s.hd.hfs.read c.toNat = some b)
    (hbp : s.params.backPressure = false) :
    Runs .hd 1 s { s with
      h2p := s.h2p ++ [b], trace := s.trace ++ [(.hd, .tx b)],
      hd := { s.hd with
        state := if c.toNat = 7 then .waitHdrAck else .sendHeader,
        cnt := if c.toNat = 7 then none else some (c + 1), rpt := none } } := by
  obtain ⟨-, -, hrow⟩ := hostSendsStoredHeader s.dropHdPulses i len hi
  exact runs_storedRow .sendHeader hs hh (hrow c b hs hc h7 hb (State.hasRoom_of_no_backPressure hbp))

/-- Rows H2a and H2b: the stored header is sent from one of its bytes on. -/
theorem runs_sendHeader (hi : hostFrame i = some len) (hs : s.hd.state = .sendHeader) (hh : s.hd.stored = .instr i)
    (hc : s.hd.cnt = some c) (h7 : c.toNat + bs.length = 7)
    (hb : s.hd.hfs.readSeq c.toNat (bs.length + 1) = some (b :: bs)) (hbp : s.params.backPressure = false) :
    Runs .hd (bs.length + 1) s { s with
      h2p := s.h2p ++ b :: bs, trace := s.trace ++ eventsOf .hd ((b :: bs).map .tx),
      hd := { s.hd with state := .waitHdrAck, cnt := none, rpt := none } } := by
  induction bs generalizing s c b with
  | nil =>
    have hlast : c.toNat = 7 := h7
    obtain ⟨-, hread, -⟩ := Memory.readSeq_tail hb
    simpa [hlast, eventsOf] using runs_headerByte hi hs hh hc hlast.le hread hbp
  | cons b' bs ih =>
    obtain ⟨-, hread, hrest⟩ := Memory.readSeq_tail hb
    have hlt : c.toNat < 7 := by rw [List.length_cons] at h7; omega
    have hsucc : (c + 1).toNat = c.toNat + 1 := Cnt.toNat_succ (by omega)
    have h7' : (c + 1).toNat + bs.length = 7 := by rw [List.length_cons] at h7; omega
    have hfirst := runs_headerByte hi hs hh hc hlt.le hread hbp
    simp only [if_neg hlt.ne] at hfirst
    have hrun := hfirst.trans (ih rfl hh rfl h7' (by rw [hsucc]; exact hrest) hbp)
    simpa [eventsOf] using hrun.of_eq (Nat.add_comm ..)

/-- The operator's trigger is taken, and the stored header is sent as stored: rows H1 or H4, then H2a and H2b. -/
theorem runs_trigger {t : State} (hhdr : s.hd.hfs.readSeq 0 8 = some hdr)
    (hs : s.hd.state = .idle ∧ s.opStart = true ∨ s.hd.state = .retryPrompt ∧ s.opRetry = true)
    (hrow : ∀ i len, hostFrame i = some len → exec i s.dropHdPulses = .next t)
    (ht : t.hd.state = .sendHeader) (hc : t.hd.cnt = some 0) (hfs : t.hd.hfs = s.hd.hfs)
    (hbp : t.params.backPressure = false) :
    Runs .hd 9 s { t with
      h2p := t.h2p ++ hdr, trace := t.trace ++ eventsOf .hd (hdr.map .tx),
      hd := { t.hd with state := .waitHdrAck, cnt := none, rpt := none } } := by
  have h8 := Memory.readSeq_length hhdr
  obtain ⟨i, hh, hi⟩ := Hd.stored_of_header hhdr (List.getElem?_eq_getElem (by omega))
  obtain ⟨b, bs, rfl⟩ : ∃ b bs, hdr = b :: bs := List.exists_cons_of_length_eq_add_one h8
  have h7 : bs.length = 7 := by simpa using h8
  have hh' : t.hd.stored = .instr i := by rw [← hh, Hd.stored, hfs, Hd.stored]
  have hsent := runs_sendHeader hi ht hh' hc (by simpa using h7) (by rw [h7, hfs]; exact hhdr) hbp
  rw [h7] at hsent
  exact (runs_stored (hs.imp_right .inl) hh (hrow i _ hi)).trans hsent

/-- Rows H1, H2a and H2b. -/
theorem runs_start (hhdr : s.hd.hfs.readSeq 0 8 = some hdr) (hs : s.hd.state = .idle) (ho : s.opStart = true)
    (hbp : s.params.backPressure = false) :
    Runs .hd 9 s { s with
      opStart := false, h2p := s.h2p ++ hdr, trace := s.trace ++ eventsOf .hd (.op .start :: hdr.map .tx),
      hd := { s.hd with state := .waitHdrAck, cnt := none, rpt := none } } := by
  have hrow := fun i len hi => (hostSendsStoredHeader s.dropHdPulses i len hi).1 hs ho
  simpa [eventsOf] using runs_trigger hhdr (.inl ⟨hs, ho⟩) hrow rfl rfl rfl hbp

/-- Rows H4, H2a and H2b. -/
theorem runs_retry (hhdr : s.hd.hfs.readSeq 0 8 = some hdr) (hs : s.hd.state = .retryPrompt) (ho : s.opRetry = true)
    (hbp : s.params.backPressure = false) :
    Runs .hd 9 s { s with
      opRetry := false, h2p := s.h2p ++ hdr, trace := s.trace ++ eventsOf .hd (.op .retry :: hdr.map .tx),
      hd := { s.hd with state := .waitHdrAck, cnt := none, rpt := none } } := by
  have hrow := fun i len hi => (hostSendsStoredHeader s.dropHdPulses i len hi).2.1 hs ho
  simpa [eventsOf] using runs_trigger hhdr (.inr ⟨hs, ho⟩) hrow rfl rfl rfl hbp

/-- A byte taken at an acknowledgment position. -/
theorem runs_ackByte {t : State} (hs : s.hd.state = .waitHdrAck ∨ s.hd.state = .wWaitFinal ∨ s.hd.state = .rWaitFinal)
    (hq : s.p2h = b :: q) (h : exec (decodeAck b) s.dropHdPulses = .next t) : Runs .hd 1 s t :=
  .one (by
    have hf : hdFetch s = .instr (decodeAck b) := by
      rcases hs with hs | hs | hs <;> simp only [hdFetch, hs, hq, tokenAt]
    rw [agentStep, hf]
    exact h)

theorem ackByte_decodeAck : ackByte (decodeAck b) = some b := by
  unfold decodeAck
  split
  · subst b; rfl
  · split
    · subst b; rfl
    · rfl

/-- Rows H3a and H3b. -/
theorem runs_headerAck {mode : Byte} (hs : s.hd.state = .waitHdrAck) (hq : s.p2h = 0x0F :: q)
    (hm : s.hd.hfs.read 3 = some mode) :
    Runs .hd 1 s { s with
      p2h := q, trace := s.trace ++ [(.hd, .rx 0x0F)],
      hd := { s.hd with
        lastAck := some 0x0F, cnt := some 0, state := if mode = 0x01 then .rRecvPayload else .wSendPayload,
        rpt := none } } := by
  obtain ⟨hack, -⟩ :=
    headerAcknowledgment s.dropHdPulses _ _ q hs hq ackByte_decodeAck encodes_decodeAck.wellFormed
  exact runs_ackByte (.inl hs) hq (hack mode rfl hm)

/-- Row H3c. -/
theorem runs_headerNack (hs : s.hd.state = .waitHdrAck) (hq : s.p2h = b :: q) (hb : b ≠ 0x0F) :
    Runs .hd 1 s { s with
      p2h := q, trace := s.trace ++ [(.hd, .rx b), (.hd, .report .headerNack)],
      hd := { s.hd with lastAck := some b, cnt := none, state := .retryPrompt, rpt := some .headerNack } } := by
  obtain ⟨-, hnack⟩ :=
    headerAcknowledgment s.dropHdPulses _ _ q hs hq ackByte_decodeAck encodes_decodeAck.wellFormed
  exact runs_ackByte (.inl hs) hq (hnack hb)

/-- Rows H7 and H10. -/
theorem runs_finalAck (hs : s.hd.state = .wWaitFinal ∨ s.hd.state = .rWaitFinal) (hq : s.p2h = b :: q) :
    Runs .hd 1 s { s with
      p2h := q,
      trace := s.trace ++ [(.hd, .rx b), (.hd, .report (if b = 0x0F then .success else .stopBitsError))],
      hd := { s.hd with
        lastAck := some b, cnt := none, state := .idle,
        rpt := some (if b = 0x0F then .success else .stopBitsError) } } :=
  runs_ackByte (.inr hs) hq
    (finalAcknowledgment s.dropHdPulses _ _ q hs hq ackByte_decodeAck encodes_decodeAck.wellFormed)

/-- Rows H5a and H5b: the stored payload is sent. -/
theorem runs_sendPayload (hi : hostFrame i = some len) (hs : s.hd.state = .wSendPayload) (hh : s.hd.stored = .instr i)
    (hc : s.hd.cnt = some c) (hlen : c.toNat + bs.length = len.toNat)
    (hb : s.hd.hfs.readSeq (8 + c.toNat) bs.length = some bs) (hbp : s.params.backPressure = false) :
    Runs .hd (bs.length + 1) s { s with
      h2p := s.h2p ++ bs, trace := s.trace ++ eventsOf .hd (bs.map .tx),
      hd := { s.hd with state := .wSendStop, cnt := none, rpt := none } } := by
  induction bs generalizing s c with
  | nil =>
    obtain ⟨-, hdone, -⟩ := hostWriteRows s.dropHdPulses i len hi
    simpa [eventsOf] using runs_storedRow .wSendPayload hs hh (hdone c hs hc hlen)
  | cons b bs ih =>
    obtain ⟨hbyte, -⟩ := hostWriteRows s.dropHdPulses i len hi
    obtain ⟨-, hread, hrest⟩ := Memory.readSeq_tail hb
    have hroom : s.dropHdPulses.hasRoom .h2p = true := State.hasRoom_of_no_backPressure hbp
    have hlt : c.toNat < len.toNat := by rw [List.length_cons] at hlen; omega
    have hsucc : (c + 1).toNat = c.toNat + 1 := Cnt.toNat_succ (by have := len.isLt; omega)
    have hlen' : (c + 1).toNat + bs.length = len.toNat := by rw [List.length_cons] at hlen; omega
    have hfirst := runs_storedRow .wSendPayload hs hh (hbyte c b hs hc hlt hread hroom)
    have hrun := hfirst.trans (ih hs hh rfl hlen' (by rw [hsucc]; exact hrest) hbp)
    simpa [eventsOf, Nat.add_comm] using hrun

/-- Row H6. -/
theorem runs_writeSendStop (hi : hostFrame i = some len) (hs : s.hd.state = .wSendStop) (hh : s.hd.stored = .instr i)
    (hb : s.hd.hfs.read (8 + len.toNat) = some b) (hbp : s.params.backPressure = false) :
    Runs .hd 1 s { s with
      h2p := s.h2p ++ [b], trace := s.trace ++ [(.hd, .tx b)],
      hd := { s.hd with state := .wWaitFinal, cnt := none, rpt := none } } := by
  obtain ⟨-, -, hstop⟩ := hostWriteRows s.dropHdPulses i len hi
  exact runs_storedRow .wSendStop hs hh (hstop b hs hb (State.hasRoom_of_no_backPressure hbp))

/-- Row H8b, with what it leaves of `HRX` written out (R35; log 6). -/
theorem runs_receiveDone (hi : hostFrame i = some len) (hs : s.hd.state = .rRecvPayload) (hh : s.hd.stored = .instr i)
    (hc : s.hd.cnt = some c) (heq : c.toNat = len.toNat) :
    Runs .hd 1 s { s with
      hd := { s.hd with state := .rSendStop, cnt := none, hrx := s.hd.hrx.truncate len.toNat, rpt := none } } := by
  refine runs_storedRow .rRecvPayload hs hh ?_
  have hs' : s.dropHdPulses.hd.state = .rRecvPayload := hs
  have hc' : s.dropHdPulses.hd.cnt = some c := hc
  rw [exec_of_hostFrame hi]
  simp only [hdStoreRow, hs']
  rw [rowRRecvPayload, hc', need_some, Cnt.countRow_of_eq heq]
  rfl

/-- Rows H8a and H8b: the payload of a Read is received into `HRX`, and nothing stays above it. -/
theorem runs_receivePayload (hi : hostFrame i = some len) (hs : s.hd.state = .rRecvPayload)
    (hh : s.hd.stored = .instr i) (hc : s.hd.cnt = some c) (hlen : c.toNat + bs.length = len.toNat)
    (hq : s.p2h = bs ++ q) :
    Runs .hd (bs.length + 1) s { s with
      p2h := q, trace := s.trace ++ eventsOf .hd (bs.map .rx),
      hd := { s.hd with
        state := .rSendStop, cnt := none, hrx := (s.hd.hrx.writeSeq c.toNat bs).truncate len.toNat, rpt := none } } := by
  induction bs generalizing s c with
  | nil =>
    subst hq
    simpa [eventsOf, Memory.writeSeq] using runs_receiveDone hi hs hh hc hlen
  | cons b bs ih =>
    obtain ⟨hbyte, -⟩ := hostReadRows s.dropHdPulses i len hi
    have hlt : c.toNat < len.toNat := by rw [List.length_cons] at hlen; omega
    have hsucc : (c + 1).toNat = c.toNat + 1 := Cnt.toNat_succ (by have := len.isLt; omega)
    have hlen' : (c + 1).toNat + bs.length = len.toNat := by rw [List.length_cons] at hlen; omega
    have hfirst := runs_storedRow .rRecvPayload hs hh (hbyte c b _ hs hc hlt hq)
    have hrun := hfirst.trans (ih hs hh rfl hlen' rfl)
    rw [hsucc] at hrun
    simpa [eventsOf, Memory.writeSeq, Nat.add_comm] using hrun

/-- Row H9. -/
theorem runs_readSendStop (hi : hostFrame i = some len) (hs : s.hd.state = .rSendStop) (hh : s.hd.stored = .instr i)
    (hb : s.hd.hfs.read (8 + len.toNat) = some b) (hbp : s.params.backPressure = false) :
    Runs .hd 1 s { s with
      h2p := s.h2p ++ [b], trace := s.trace ++ [(.hd, .tx b)],
      hd := { s.hd with state := .rWaitFinal, cnt := none, rpt := none } } := by
  obtain ⟨-, -, hstop⟩ := hostReadRows s.dropHdPulses i len hi
  exact runs_storedRow .rSendStop hs hh (hstop b hs hb (State.hasRoom_of_no_backPressure hbp))

/-- A cycle whose header is acknowledged, up to its branch: rows H1 to H2b, then H3a or H3b. -/
theorem runs_headerAcked {mode : Byte} (hhdr : s.hd.hfs.readSeq 0 8 = some hdr) (hmode : hdr[3]? = some mode)
    (hs : s.hd.state = .idle) (ho : s.opStart = true) (hbp : s.params.backPressure = false) (hq : s.p2h = 0x0F :: q) :
    Runs .hd 10 s { s with
      opStart := false, h2p := s.h2p ++ hdr, p2h := q,
      trace := s.trace ++ eventsOf .hd ([.op .start] ++ hdr.map .tx ++ [.rx 0x0F]),
      hd := { s.hd with
        lastAck := some 0x0F, cnt := some 0, state := if mode = 0x01 then .rRecvPayload else .wSendPayload,
        rpt := none } } := by
  have hm : s.hd.hfs.read 3 = some mode := by
    simpa [hmode] using (Memory.readSeq_eq_some.1 hhdr).2 3 (by omega)
  simpa [eventsOf] using (runs_start hhdr hs ho hbp).trans (runs_headerAck rfl hq hm)

end

/-! ### Whole cycles at the host (R206, R214, R215) -/

/-- Settles O51: the acknowledged header, then the rows H5a, H5b, H6 and H7. -/
theorem hostWriteCycle : Obligations.HostWriteCycle := by
  intro s hdr payload rest len mode stop a ms h8 hhlen hmode hne hlen hstore hs ho hbp hq hscript
  obtain ⟨hhdr, hpayload, hstop⟩ := Memory.readSeq_frame h8 hlen hstore
  obtain ⟨i, hh, hi⟩ := Hd.stored_of_header hhdr hhlen
  have hacked := runs_headerAcked hhdr hmode hs ho hbp hq
  rw [if_neg hne] at hacked
  have hrun := ((hacked.trans
    (runs_sendPayload (c := 0) hi rfl hh rfl (by simpa using hlen) (by rw [hlen]; exact hpayload) hbp)).trans
    (runs_writeSendStop hi rfl hh hstop hbp)).trans (runs_finalAck (.inl rfl) rfl)
  refine ⟨_, (hrun.of_eq (by omega)).core_run hscript, ?_, rfl, ?_, rfl, rfl, rfl, rfl, rfl, rfl, rfl⟩
  · simp
  · simp [eventsOf]

/-- Settles O52: the acknowledged header, then the rows H8a, H8b, H9 and H10. -/
theorem hostReadCycle : Obligations.HostReadCycle := by
  intro s hdr payload got rest len stop a ms h8 hhlen hmode hlen hgot hstore hs ho hbp hq hscript
  obtain ⟨hhdr, -, hstop⟩ := Memory.readSeq_frame h8 hlen hstore
  obtain ⟨i, hh, hi⟩ := Hd.stored_of_header hhdr hhlen
  have hacked := runs_headerAcked hhdr hmode hs ho hbp hq
  rw [if_pos rfl] at hacked
  have hrun := ((hacked.trans (runs_receivePayload (c := 0) hi rfl hh rfl (by simpa using hgot) rfl)).trans
    (runs_readSendStop hi rfl hh hstop hbp)).trans (runs_finalAck (.inr rfl) rfl)
  refine ⟨_, (hrun.of_eq (by omega)).core_run hscript, ?_, rfl, ?_, rfl, rfl, ?_, rfl, rfl, rfl, rfl⟩
  · simp
  · simp [eventsOf]
  · refine (Memory.readSeq_truncate _ (Nat.zero_add _).le).trans ?_
    rw [← hgot]
    exact Memory.readSeq_writeSeq s.hd.hrx 0 got

/-! ### The operator's move between two runs of an engine (R212; log 1) -/

theorem core_run_add {M : Host.Core} {m n : Nat} {s t : M.State} (h : M.run m s = .next t) :
    M.run (m + n) s = M.run n t := by
  induction m generalizing s with
  | zero =>
    cases h
    rw [Nat.zero_add]
  | succ m ih =>
    rw [Host.Core.run] at h
    split at h
    · rename_i hstep
      rw [Nat.add_right_comm, core_run_succ hstep]
      exact ih h
    · cases h
    · cases h

/-- What the operator's trigger does does not depend on the moves to come. -/
theorem State.operator_setScript (k : OpKind) (s : State) (ms : List Move) :
    (s.setScript ms).operator k = (s.operator k).setScript ms := by
  cases k
  · rw [State.operator_start, State.operator_start, apply_ite (State.setScript ms)]; rfl
  · rw [State.operator_retry, State.operator_retry, apply_ite (State.setScript ms)]; rfl

/-- A script of a run, a trigger and another run performs them in that order. -/
theorem Runs.core_run_operator {a : Agent} {m n : Nat} {k : OpKind} {s u v t : State} {ms : List Move}
    (h : Runs a m s u) (hop : u.operator k = v) (h' : Runs a n v t)
    (hs : s.script = List.replicate m (.run a) ++ .env (.op k) :: (List.replicate n (.run a) ++ ms)) :
    Sys2Proof.core.run (m + (n + 1)) s = .next (t.setScript ms) := by
  have htrigger : step (u.setScript (.env (.op k) :: (List.replicate n (.run a) ++ ms))) =
      .next (v.setScript (List.replicate n (.run a) ++ ms)) := by
    rw [← hop, ← State.operator_setScript]
    rfl
  have hrest : Sys2Proof.core.run (n + 1) (u.setScript (.env (.op k) :: (List.replicate n (.run a) ++ ms))) =
      Sys2Proof.core.run n (v.setScript (List.replicate n (.run a) ++ ms)) :=
    core_run_succ (M := Sys2Proof.core) htrigger
  exact (core_run_add (M := Sys2Proof.core) (h.core_run hs)).trans (hrest.trans h'.core_run_setScript)

/-- Settles O53: the header sent and rejected, the operator's retry, and the header sent again. -/
theorem hostRetrySendsSameHeader : Obligations.HostRetrySendsSameHeader := by
  intro s hdr rest b ms _ hhdr hs ho hbp hb hq hscript
  have hrejected := (runs_start hhdr hs ho hbp).trans (runs_headerNack rfl hq hb)
  have hrun := hrejected.core_run_operator ((State.operator_retry _).trans (if_pos rfl)) (runs_retry hhdr rfl rfl hbp)
    (by rwa [List.append_assoc, List.append_assoc] at hscript)
  refine ⟨_, hrun, rfl, rfl, ?_, rfl, rfl, rfl, rfl, rfl⟩
  simp [State.setScript, State.setOpRetry, eventsOf]

end Sys2Proof.Machine

/-! ## Family `70_reset_and_hazards`: the waits that nothing ends -/

namespace Sys2Proof.Machine

/-! ### The primitives that cannot complete (R15, R40, R290; log 8, log 12) -/

section
variable {s : State} {b : Byte}

theorem peSend_of_noRoom {k : State → Out} (h : s.hasRoom .p2h = false) : peSend b k s = .next s := if_neg (by simp [h])

theorem hdSend_of_noRoom {k : State → Out} (h : s.hasRoom .h2p = false) : hdSend b k s = .next s := if_neg (by simp [h])

theorem peRecv_nil {k : Byte → State → Out} (h : s.h2p = []) : peRecv k s = .next s := by
  rw [peRecv, h]

theorem hdRecv_nil {k : Byte → State → Out} (h : s.p2h = []) : hdRecv k s = .next s := by
  rw [hdRecv, h]

end

/-! ### The peripheral's waits (R136, R158, R290) -/

section
variable {s : State} {b len id mode : Byte} {c : Cnt}

/-- The peripheral's positions that read a token, their queue empty. -/
theorem agentStep_pe_noToken (hq : s.h2p = [])
    (hs : s.pe.state = .waitStart ∨ s.pe.state = .wStop ∨ s.pe.state = .rStop) :
    agentStep .pe s = .next s.dropPePulses := by
  have hf : peFetch s = .wait := by rcases hs with hs | hs | hs <;> simp only [peFetch, hs, hq, tokenAt]
  rw [agentStep, hf, runFetched]

theorem rowReadHeader_noByte (hq : s.h2p = []) (hc : s.pe.cnt = some c) (h1 : 1 ≤ c.toNat) (h7 : c.toNat ≤ 7) :
    rowReadHeader s = .next s := by
  rw [rowReadHeader, hc, need_some, if_pos ⟨h1, h7⟩, peRecv_nil hq]

/-- The payload's wait (R161). -/
theorem peHeaderRow_payload_noByte (hs : s.pe.state = .wPayload) (hq : s.h2p = []) (hc : s.pe.cnt = some c)
    (hlt : c.toNat < len.toNat) : peHeaderRow id len mode s = .next s := by
  simp only [peHeaderRow, hs]
  rw [rowWPayload, hc, need_some, Cnt.countRow_of_lt hlt, peRecv_nil hq]

/-- The allocator's wait (R158). -/
theorem peHeaderRow_noAllocAnswer (hs : s.pe.state = .allocateBuffer) (hm : s.params.allocModel = .oracle)
    (hq : s.allocQ = []) : peHeaderRow id len mode s = .next s := by
  simp only [peHeaderRow, hs, rowAllocate, State.allocAnswer_of_waiting hm hq]

/-- The write capability's wait (R136). -/
theorem peHeaderRow_noWriteReturn (hs : s.pe.state = .wDispatch) (hn : s.devwQ = 0) :
    peHeaderRow id len mode s = .next s := by
  simp only [peHeaderRow, hs, rowWDispatch, hn]

/-- The read capability's wait (R136). -/
theorem peHeaderRow_fewSamples (hs : s.pe.state = .rFill) (h : s.adcQ.length < len.toNat) :
    peHeaderRow id len mode s = .next s := by
  simp only [peHeaderRow, hs]
  exact if_neg (Nat.not_le.2 h)

theorem peHeaderRow_stream_noRoom (hs : s.pe.state = .rStream) (hroom : s.hasRoom .p2h = false) (hc : s.pe.cnt = some c)
    (hlt : c.toNat < len.toNat) (hb : s.pe.buf.read c.toNat = some b) : peHeaderRow id len mode s = .next s := by
  simp only [peHeaderRow, hs]
  rw [rowRStream, hc, need_some, Cnt.countRow_of_lt hlt, hb, need_some, peSend_of_noRoom hroom]

/-- The rows that send one acknowledgment, the Transport taking no byte. -/
theorem peHeaderRow_ack_noRoom (hs : s.pe.state ∈ [PeState.sendNack, .wHdrAck, .wFinalAck, .rHdrAck, .rFinalAck])
    (hroom : s.hasRoom .p2h = false) : peHeaderRow id len mode s = .next s := by
  unfold peHeaderRow
  cases hst : s.pe.state
  case sendNack | wHdrAck | wFinalAck | rHdrAck | rFinalAck => exact peSend_of_noRoom hroom
  all_goals simp [hst] at hs

/-- In a state that reads no byte, a peripheral whose header's row waits has only its pulses dropped. -/
theorem agentStep_pe_of_rowWaits (hs : s.pe.state ∉ [PeState.waitStart, .readHeader, .wStop, .rStop, .halted])
    (hh : s.pe.HeaderLive)
    (hrow : ∀ id len mode, s.pe.len = some len → peHeaderRow id len mode s.dropPePulses = .next s.dropPePulses) :
    agentStep .pe s = .next s.dropPePulses := by
  obtain ⟨id, len, mode, hlen, hrun⟩ := hh.runFetched_header
  rw [agentStep, peFetch_of_header hs, hrun, hrow id len mode hlen]

end

/-! ### The host's waits (R212, R290) -/

section
variable {s : State} {len : Byte} {c : Cnt}

/-- The acknowledgment positions, their queue empty. -/
theorem agentStep_hd_noAck (hq : s.p2h = [])
    (hs : s.hd.state = .waitHdrAck ∨ s.hd.state = .wWaitFinal ∨ s.hd.state = .rWaitFinal) :
    agentStep .hd s = .next s.dropHdPulses := by
  have hf : hdFetch s = .wait := by rcases hs with hs | hs | hs <;> simp only [hdFetch, hs, hq, tokenAt]
  rw [agentStep, hf, runFetched]

/-- The operator's wait, its trigger not given. -/
theorem agentStep_hd_noTrigger
    (hs : s.hd.state = .idle ∧ s.opStart = false ∨ s.hd.state = .retryPrompt ∧ s.opRetry = false) :
    agentStep .hd s = .next s.dropHdPulses := by
  have hf : hdFetch s = .wait := by
    rcases hs with ⟨hs, ho⟩ | ⟨hs, ho⟩ <;> simp only [hdFetch, hs, ho, Bool.false_eq_true, if_false]
  rw [agentStep, hf, runFetched]

/-- The sample's wait (R208). -/
theorem hdStoreRow_sample_noByte (hs : s.hd.state = .rRecvPayload) (hq : s.p2h = []) (hc : s.hd.cnt = some c)
    (hlt : c.toNat < len.toNat) : hdStoreRow len s = .next s := by
  simp only [hdStoreRow, hs]
  rw [rowRRecvPayload, hc, need_some, Cnt.countRow_of_lt hlt, hdRecv_nil hq]

theorem hdStoreRow_header_noRoom (hs : s.hd.state = .sendHeader) (hroom : s.hasRoom .h2p = false)
    (hf : s.hd.hfs.frameLoaded = true) (hc : s.hd.cnt = some c) (h7 : c.toNat ≤ 7) : hdStoreRow len s = .next s := by
  obtain ⟨_, -, hread⟩ := Memory.frameLoaded_read hf
  obtain ⟨b, hb⟩ := hread (hfsHeaderAddr c) (by unfold hfsHeaderAddr; omega)
  simp only [hdStoreRow, hs]
  rw [rowSendHeader, hc, need_some, if_pos h7, hb, need_some, hdSend_of_noRoom hroom]

theorem hdStoreRow_payload_noRoom (hs : s.hd.state = .wSendPayload) (hroom : s.hasRoom .h2p = false)
    (hf : s.hd.hfs.frameLoaded = true) (hlen : s.hd.hfs.read 2 = some len) (hc : s.hd.cnt = some c)
    (hlt : c.toNat < len.toNat) : hdStoreRow len s = .next s := by
  have haddr : hfsPayloadAddr c = 8 + c.toNat := hfsPayloadAddr_eq (by have := len.isLt; omega)
  obtain ⟨b, hb⟩ := Memory.frameLoaded_read_of_lt hf hlen (i := hfsPayloadAddr c) (by omega)
  simp only [hdStoreRow, hs]
  rw [rowWSendPayload, hc, need_some, Cnt.countRow_of_lt hlt, hb, need_some, hdSend_of_noRoom hroom]

/-- The rows that send the stored stop byte, the Transport taking no byte. -/
theorem hdStoreRow_stop_noRoom (hs : s.hd.state = .wSendStop ∨ s.hd.state = .rSendStop) (hroom : s.hasRoom .h2p = false)
    (hf : s.hd.hfs.frameLoaded = true) (hlen : s.hd.hfs.read 2 = some len) : hdStoreRow len s = .next s := by
  obtain ⟨b, hb⟩ := Memory.frameLoaded_read_stop hf hlen
  rcases hs with hs | hs <;> simp only [hdStoreRow, hs]
  · rw [rowWSendStop, hb, need_some, hdSend_of_noRoom hroom]
  · rw [rowRSendStop, hb, need_some, hdSend_of_noRoom hroom]

/-- In a state that runs the stored frame, a host whose row waits has only its pulse dropped. -/
theorem agentStep_hd_of_rowWaits (hf : s.hd.hfs.frameLoaded = true)
    (hs : s.hd.state ∈ [HdState.sendHeader, .wSendPayload, .wSendStop, .rRecvPayload, .rSendStop])
    (hrow : ∀ len, s.hd.hfs.read 2 = some len → hdStoreRow len s.dropHdPulses = .next s.dropHdPulses) :
    agentStep .hd s = .next s.dropHdPulses := by
  obtain ⟨len, hlen, hrun⟩ := Hd.runFetched_stored hf
  rw [agentStep, hdFetch_of_stored (.inr (.inr hs)), hrun, hrow len hlen]

end

/-- Settles O42: in each row of R290's table the fetch waits, or the row's primitive cannot complete. -/
theorem blockedEngineWaits : Obligations.BlockedEngineWaits := by
  intro s
  refine ⟨agentStep_pe_noToken, ?readHeader, ?payload, ?allocator, ?writeCall, ?readCall, ?ackAwaited, ?sample,
    agentStep_hd_noTrigger, ?sendAck, ?stream, ?sendStop, ?sendHeader, ?sendPayload⟩
  case readHeader =>
    intro c hq hs hc h1 h7
    have hf : peFetch s = .header := by simp only [peFetch, hs]
    rw [agentStep, hf]
    exact rowReadHeader_noByte hq hc h1 h7
  case payload =>
    intro c len hq hs hh hc hlen hlt
    refine agentStep_pe_of_rowWaits (by simp [hs]) hh fun _ len' _ hlen' => ?_
    cases hlen.symm.trans hlen'
    exact peHeaderRow_payload_noByte hs hq hc hlt
  case allocator =>
    intro hs hflow hm hq
    have hh : s.pe.HeaderLive := hflow.elim (·.1) (·.1)
    exact agentStep_pe_of_rowWaits (by simp [hs]) hh fun _ _ _ _ => peHeaderRow_noAllocAnswer hs hm hq
  case writeCall =>
    intro hs hh hn
    exact agentStep_pe_of_rowWaits (by simp [hs]) hh fun _ _ _ _ => peHeaderRow_noWriteReturn hs hn
  case readCall =>
    intro len hs hh hlen hfew
    refine agentStep_pe_of_rowWaits (by simp [hs]) hh fun _ len' _ hlen' => ?_
    cases hlen.symm.trans hlen'
    exact peHeaderRow_fewSamples hs hfew
  case ackAwaited => exact fun hq hs => agentStep_hd_noAck hq (hs.imp_left And.left)
  case sample =>
    intro c len hq hs hf hc hlen hlt
    refine agentStep_hd_of_rowWaits hf (by simp [hs]) fun len' hlen' => ?_
    cases hlen.symm.trans hlen'
    exact hdStoreRow_sample_noByte hs hq hc hlt
  case sendAck =>
    intro hroom hh hs
    have hne : ∀ st ∈ [PeState.sendNack, .wHdrAck, .wFinalAck, .rHdrAck, .rFinalAck],
        st ∉ [PeState.waitStart, .readHeader, .wStop, .rStop, .halted] := by decide
    exact agentStep_pe_of_rowWaits (hne _ hs) hh fun _ _ _ _ => peHeaderRow_ack_noRoom hs hroom
  case stream =>
    intro c len b hroom hs hh hc hlen hlt hb
    refine agentStep_pe_of_rowWaits (by simp [hs]) hh fun _ len' _ hlen' => ?_
    cases hlen.symm.trans hlen'
    exact peHeaderRow_stream_noRoom hs hroom hc hlt hb
  case sendStop =>
    intro hroom hf hs
    have hmem : s.hd.state ∈ [HdState.sendHeader, .wSendPayload, .wSendStop, .rRecvPayload, .rSendStop] := by
      rcases hs with hs | hs <;> simp [hs]
    exact agentStep_hd_of_rowWaits hf hmem fun _ hlen => hdStoreRow_stop_noRoom hs hroom hf hlen
  case sendHeader =>
    intro c hroom hf hs hc h7
    exact agentStep_hd_of_rowWaits hf (by simp [hs]) fun _ _ => hdStoreRow_header_noRoom hs hroom hf hc h7
  case sendPayload =>
    intro c len hroom hf hs hc hlen hlt
    refine agentStep_hd_of_rowWaits hf (by simp [hs]) fun len' hlen' => ?_
    cases hlen.symm.trans hlen'
    exact hdStoreRow_payload_noRoom hs hroom hf hlen hc hlt

end Sys2Proof.Machine
